-- ==== Sys2Proof/Word.lean ====
section
/-! DEFINITION. The two units of data of Oort (`00_scope.md` R4, `20_memory.md` R33): a register, an address or a
data word is 64 bits, a unit of memory is 8 bits. -/
namespace Sys2Proof

/-- A register value, an address or a data word (R4): 64 bits, read as unsigned or as two's complement. -/
abbrev Word := BitVec 64

/-- The smallest addressable unit of memory (R33). -/
abbrev Byte := BitVec 8

/-- The value the spec writes `-1` (R4). -/
abbrev Word.minusOne : Word := 0xffff_ffff_ffff_ffff#64

end Sys2Proof
end

