-- ==== Sys2Proof/Syntax.lean ====
section
/-! DEFINITION. The instructions of Oort: one constructor per row of `spec/opcode_table.json`, the 31 rows of space
`opcode` (`30_encoding.md` R68, R69) and the 19 rows of space `ext` (`44_extensions.md` R136). -/
namespace Sys2Proof

/-- A general register number, `0 .. 15` (R19): all sixteen are legal and none is special (R115). -/
abbrev Reg := Fin 16

/-- A 4-bit condition field, one bit per set of accumulator values (R74). -/
abbrev Cond := BitVec 4

/-- A 4-bit mode field, four options that shape the extended immediate (R73). -/
abbrev Mode := BitVec 4

/-- The 16-bit immediate of a long instruction (R71). -/
abbrev Imm := BitVec 16

/-- An extension number (R131): two bytes, or four bytes when the first of them is `7f` or `ff`. The type alone
admits a number of the wrong length; `ExtNumber.wellFormed` is the check. -/
inductive ExtNumber where
  | two (n : BitVec 16)
  | four (n : BitVec 32)
deriving DecidableEq, Repr

/-- The instructions. The first 31 are selected by the first byte in memory. The last 19, the actions of `ext`, are
selected by the action word in `sr` when the byte `03` executes (R82, R130). -/
inductive Instr where
  -- bytes 00 to 0f (R69)
  | null
  | trace
  | halt
  | ext
  | mfsr
  | mtsr
  | shl
  | shr
  | jumpa
  | calla
  | ret
  | retl
  | mflr
  | mtlr
  | pc
  | nop
  -- bytes 1x to 7x (R68)
  | test (c : Cond)
  | mf (x : Reg)
  | mt (x : Reg)
  | and (x : Reg)
  | or (x : Reg)
  | xor (x : Reg)
  | add (x : Reg)
  -- bytes 8x to fx, each followed by the immediate (R68)
  | jump (c : Cond) (imm : Imm)
  | call (c : Cond) (imm : Imm)
  | ld (x : Reg) (imm : Imm)
  | st (x : Reg) (imm : Imm)
  | andi (m : Mode) (imm : Imm)
  | ori (m : Mode) (imm : Imm)
  | xori (m : Mode) (imm : Imm)
  | addi (m : Mode) (imm : Imm)
  -- the actions of `ext` (R136); the operand of each is the part of `sr` its row names
  /-- R137: the eight flags PI, PO, PR, PW, SI, SO, SR, SW from bit 7 down to bit 0. -/
  | extDataFence (flags : BitVec 8)
  | extInstructionFence
  | extMoveFromAur (x : Fin 16)
  | extMoveToAur (x : Fin 16)
  | extAtomicAnd (x : Reg)
  | extAtomicOr (x : Reg)
  | extAtomicXor (x : Reg)
  | extAtomicAdd (x : Reg)
  | extLoadLink (x : Reg)
  | extStoreConditional (x : Reg)
  /-- R147: the low 32 bits are free for software. -/
  | extSystemCall (free : BitVec 32)
  | extHartId
  | extMoveFromAsr (x : Fin 16)
  | extMoveToAsr (x : Fin 16)
  | extTlbClearAll
  | extTlbClear (x : Reg)
  | extTlbGet (x : Reg)
  | extTlbSet (x : Reg)
  /-- R155: the number asked about, as R131 parses it from the low 32 bits of the action word. -/
  | extCheckExtension (n : ExtNumber)
deriving DecidableEq, Repr

end Sys2Proof
end

