-- ==== Sys2Proof/WellFormed.lean ====
section
/-! DEFINITION. Which terms of `Instr` have an encoding. The types of `Syntax` are exact for every operand but one:
a register number, a condition, a mode, an immediate and the flags of a fence fill their fields, so every value of
the type is encodable. The exception is the operand of check extension, an extension number, whose length is tied to
its first byte (`44_extensions.md` R131, R132). -/
namespace Sys2Proof

/-- The first byte announces a four-byte extension number (R131): it is `7f` or `ff`. -/
def fourByteLead (first : Byte) : Bool := first == 0x7f#8 || first == 0xff#8

/-- R131, R132: a two-byte number lies in `0000..7eff` or `8000..feff`, a four-byte number in
`7f00_0000..7fff_ffff` or `ff00_0000..ffff_ffff`. -/
def ExtNumber.wellFormed : ExtNumber → Bool
  | .two n => !fourByteLead (n.extractLsb' 8 8)
  | .four n => fourByteLead (n.extractLsb' 24 8)

/-- An instruction is well formed when some encoding stands for it. -/
def Instr.wellFormed : Instr → Bool
  | .null => true
  | .trace => true
  | .halt => true
  | .ext => true
  | .mfsr => true
  | .mtsr => true
  | .shl => true
  | .shr => true
  | .jumpa => true
  | .calla => true
  | .ret => true
  | .retl => true
  | .mflr => true
  | .mtlr => true
  | .pc => true
  | .nop => true
  | .test _ => true
  | .mf _ => true
  | .mt _ => true
  | .and _ => true
  | .or _ => true
  | .xor _ => true
  | .add _ => true
  | .jump _ _ => true
  | .call _ _ => true
  | .ld _ _ => true
  | .st _ _ => true
  | .andi _ _ => true
  | .ori _ _ => true
  | .xori _ _ => true
  | .addi _ _ => true
  | .extDataFence _ => true
  | .extInstructionFence => true
  | .extMoveFromAur _ => true
  | .extMoveToAur _ => true
  | .extAtomicAnd _ => true
  | .extAtomicOr _ => true
  | .extAtomicXor _ => true
  | .extAtomicAdd _ => true
  | .extLoadLink _ => true
  | .extStoreConditional _ => true
  | .extSystemCall _ => true
  | .extHartId => true
  | .extMoveFromAsr _ => true
  | .extMoveToAsr _ => true
  | .extTlbClearAll => true
  | .extTlbClear _ => true
  | .extTlbGet _ => true
  | .extTlbSet _ => true
  | .extCheckExtension n => n.wellFormed

end Sys2Proof
end

