-- ==== Sys2Proof/Decode.lean ====
section
/-! DEFINITION. From bytes to instructions (`30_encoding.md` R63 to R71), from the action word in `sr` to the actions
of `ext` (`44_extensions.md` R131 to R136), and back. -/
namespace Sys2Proof

/-- Why a decoder gives no instruction. No first byte is undefined (R70): a byte string is refused only for ending
too soon. An action word is refused when it names no action (R136, R158). -/
inductive DecodeError where
  /-- There is no first byte. -/
  | noBytes
  /-- A first byte from `80` up is not followed by two immediate bytes. -/
  | immediateMissing
  /-- The action word names no assigned action. -/
  | invalidAction (w : Word)
deriving DecidableEq, Repr

/-! ## Instructions in memory -/

/-- R65, R67: the high digit of the first byte, the operation. -/
def opOf (b0 : Byte) : Fin 16 := (b0.extractLsb' 4 4).toFin

/-- R66: the low digit of the first byte, the argument. -/
def argOf (b0 : Byte) : BitVec 4 := b0.extractLsb' 0 4

/-- The argument read as a register number (R66). -/
def regOf (arg : BitVec 4) : Reg := arg.toFin

/-- R63: the first byte alone decides the length, by its bit 7. -/
def lengthOf (b0 : Byte) : Nat := if b0.msb then 3 else 1

/-- R69: the sixteen instructions of the bytes `00` to `0f`, in order. -/
def miscTable : Vector Instr 16 :=
  #v[.null, .trace, .halt, .ext, .mfsr, .mtsr, .shl, .shr,
     .jumpa, .calla, .ret, .retl, .mflr, .mtlr, .pc, .nop]

/-- R68: the sixteen operations, in order of the high digit. -/
def opTable : Vector (BitVec 4 → Imm → Instr) 16 :=
  #v[fun arg _ => miscTable[arg.toFin],
     fun arg _ => .test arg,
     fun arg _ => .mf (regOf arg),
     fun arg _ => .mt (regOf arg),
     fun arg _ => .and (regOf arg),
     fun arg _ => .or (regOf arg),
     fun arg _ => .xor (regOf arg),
     fun arg _ => .add (regOf arg),
     fun arg imm => .jump arg imm,
     fun arg imm => .call arg imm,
     fun arg imm => .ld (regOf arg) imm,
     fun arg imm => .st (regOf arg) imm,
     fun arg imm => .andi arg imm,
     fun arg imm => .ori arg imm,
     fun arg imm => .xori arg imm,
     fun arg imm => .addi arg imm]

/-- R64, R70: every first byte selects exactly one instruction; a short one ignores `imm`. -/
def decodeFirst (b0 : Byte) (imm : Imm) : Instr := opTable[opOf b0] (argOf b0) imm

/-- R71: the byte at the lower address is the low byte of the immediate. -/
def immOf (b1 b2 : Byte) : Imm := b2 ++ b1

/-- R64: the instruction at the head of a string of bytes, and the bytes after it. -/
def decode : List Byte → Except DecodeError (Instr × List Byte)
  | [] => .error .noBytes
  | b0 :: rest =>
    if b0.msb then
      match rest with
      | b1 :: b2 :: rest' => .ok (decodeFirst b0 (immOf b1 b2), rest')
      | _ => .error .immediateMissing
    else .ok (decodeFirst b0 0, rest)

/-! ## The action word -/

/-- R131: a two-byte or a four-byte number, from the leading 32 bits of an action word. -/
def ExtNumber.ofLead (lead : BitVec 32) : ExtNumber :=
  if fourByteLead (lead.extractLsb' 24 8) then .four lead else .two (lead.extractLsb' 16 16)

/-- R131: `ExtNumber(w)`. -/
def ExtNumber.ofWord (w : Word) : ExtNumber := .ofLead (w.extractLsb' 32 32)

/-- The leading 32 bits that hold a number, its free bits zero. -/
def ExtNumber.lead : ExtNumber → BitVec 32
  | .two n => n ++ 0#16
  | .four n => n

/-- The action word of a number, every argument bit zero. -/
def ExtNumber.word (n : ExtNumber) : Word := n.lead ++ 0#32

/-- R132, R133: the highest bit of the number makes an action supervisor-level. -/
def ExtNumber.supervisorLevel (n : ExtNumber) : Bool := n.lead.msb

/-- R134: the register digit of a two-byte number, `w[51:48]`. -/
def digitOf (w : Word) : Fin 16 := (w.extractLsb' 48 4).toFin

/-- One row of the dispatch table of R136. -/
structure ActionRow where
  mask : Word
  pattern : Word
  build : Word → Instr

/-- R136: the row is selected when `(w & mask) = match`. -/
def ActionRow.selects (r : ActionRow) (w : Word) : Bool := w &&& r.mask == r.pattern

/-- R136, row by row. Bits of the word that a row does not name are ignored (R134). -/
def actionRows : List ActionRow :=
  [⟨0xffff_0000_0000_0000, 0x0010_0000_0000_0000, fun w => .extDataFence (w.extractLsb' 40 8)⟩,
   ⟨0xffff_0000_0000_0000, 0x0011_0000_0000_0000, fun _ => .extInstructionFence⟩,
   ⟨0xfff0_0000_0000_0000, 0x0020_0000_0000_0000, fun w => .extMoveFromAur (digitOf w)⟩,
   ⟨0xfff0_0000_0000_0000, 0x0030_0000_0000_0000, fun w => .extMoveToAur (digitOf w)⟩,
   ⟨0xfff0_0000_0000_0000, 0x0040_0000_0000_0000, fun w => .extAtomicAnd (digitOf w)⟩,
   ⟨0xfff0_0000_0000_0000, 0x0050_0000_0000_0000, fun w => .extAtomicOr (digitOf w)⟩,
   ⟨0xfff0_0000_0000_0000, 0x0060_0000_0000_0000, fun w => .extAtomicXor (digitOf w)⟩,
   ⟨0xfff0_0000_0000_0000, 0x0070_0000_0000_0000, fun w => .extAtomicAdd (digitOf w)⟩,
   ⟨0xfff0_0000_0000_0000, 0x00a0_0000_0000_0000, fun w => .extLoadLink (digitOf w)⟩,
   ⟨0xfff0_0000_0000_0000, 0x00b0_0000_0000_0000, fun w => .extStoreConditional (digitOf w)⟩,
   ⟨0xffff_ffff_0000_0000, 0x7fff_ffff_0000_0000, fun w => .extSystemCall (w.extractLsb' 0 32)⟩,
   ⟨0xffff_0000_0000_0000, 0x8010_0000_0000_0000, fun _ => .extHartId⟩,
   ⟨0xfff0_0000_0000_0000, 0x8020_0000_0000_0000, fun w => .extMoveFromAsr (digitOf w)⟩,
   ⟨0xfff0_0000_0000_0000, 0x8030_0000_0000_0000, fun w => .extMoveToAsr (digitOf w)⟩,
   ⟨0xffff_0000_0000_0000, 0x8040_0000_0000_0000, fun _ => .extTlbClearAll⟩,
   ⟨0xfff0_0000_0000_0000, 0x8050_0000_0000_0000, fun w => .extTlbClear (digitOf w)⟩,
   ⟨0xfff0_0000_0000_0000, 0x8060_0000_0000_0000, fun w => .extTlbGet (digitOf w)⟩,
   ⟨0xfff0_0000_0000_0000, 0x8070_0000_0000_0000, fun w => .extTlbSet (digitOf w)⟩,
   ⟨0xffff_ffff_0000_0000, 0xffff_ffff_0000_0000,
     fun w => .extCheckExtension (.ofLead (w.extractLsb' 0 32))⟩]

/-- R136: the action an action word names. -/
def decodeAction (w : Word) : Except DecodeError Instr :=
  match actionRows.find? (fun r => r.selects w) with
  | some r => .ok (r.build w)
  | none => .error (.invalidAction w)

/-- R136, R158: the number is one of the assigned ones. -/
def ExtNumber.assigned (n : ExtNumber) : Bool :=
  n.wellFormed && actionRows.any (fun r => r.selects n.word)

/-! ## The encoder -/

/-- The first byte from its two digits (R65, R67). -/
def firstByte (op arg : BitVec 4) : Byte := op ++ arg

/-- A short instruction (R65). -/
def encodeS (op arg : BitVec 4) : List Byte := [firstByte op arg]

/-- A long instruction (R67): the immediate follows, low byte first. -/
def encodeL (op arg : BitVec 4) (imm : Imm) : List Byte :=
  [firstByte op arg, imm.extractLsb' 0 8, imm.extractLsb' 8 8]

/-- A register number as an argument field (R66). -/
def regField (x : Reg) : BitVec 4 := BitVec.ofFin x

/-- R68, R69: the bytes of an instruction in address order. An action of `ext` is the byte `03` in memory (R92);
what tells it from the others is its action word, `encodeAction`. -/
def encode : Instr → List Byte
  | .null => encodeS 0x0 0x0
  | .trace => encodeS 0x0 0x1
  | .halt => encodeS 0x0 0x2
  | .ext => encodeS 0x0 0x3
  | .mfsr => encodeS 0x0 0x4
  | .mtsr => encodeS 0x0 0x5
  | .shl => encodeS 0x0 0x6
  | .shr => encodeS 0x0 0x7
  | .jumpa => encodeS 0x0 0x8
  | .calla => encodeS 0x0 0x9
  | .ret => encodeS 0x0 0xa
  | .retl => encodeS 0x0 0xb
  | .mflr => encodeS 0x0 0xc
  | .mtlr => encodeS 0x0 0xd
  | .pc => encodeS 0x0 0xe
  | .nop => encodeS 0x0 0xf
  | .test c => encodeS 0x1 c
  | .mf x => encodeS 0x2 (regField x)
  | .mt x => encodeS 0x3 (regField x)
  | .and x => encodeS 0x4 (regField x)
  | .or x => encodeS 0x5 (regField x)
  | .xor x => encodeS 0x6 (regField x)
  | .add x => encodeS 0x7 (regField x)
  | .jump c imm => encodeL 0x8 c imm
  | .call c imm => encodeL 0x9 c imm
  | .ld x imm => encodeL 0xa (regField x) imm
  | .st x imm => encodeL 0xb (regField x) imm
  | .andi m imm => encodeL 0xc m imm
  | .ori m imm => encodeL 0xd m imm
  | .xori m imm => encodeL 0xe m imm
  | .addi m imm => encodeL 0xf m imm
  | .extDataFence _ | .extInstructionFence | .extMoveFromAur _ | .extMoveToAur _ | .extAtomicAnd _ | .extAtomicOr _
  | .extAtomicXor _ | .extAtomicAdd _ | .extLoadLink _ | .extStoreConditional _ | .extSystemCall _ | .extHartId
  | .extMoveFromAsr _ | .extMoveToAsr _ | .extTlbClearAll | .extTlbClear _ | .extTlbGet _ | .extTlbSet _
  | .extCheckExtension _ => encodeS 0x0 0x3

/-- A two-byte number whose low digit is a register number (R134). -/
def digitNumber (high : BitVec 12) (x : Fin 16) : ExtNumber := .two (high ++ (BitVec.ofFin x : BitVec 4))

/-- The extension number of an action (R136); the other instructions have none. -/
def Instr.actionNumber : Instr → Option ExtNumber
  | .extDataFence _ => some (.two 0x0010#16)
  | .extInstructionFence => some (.two 0x0011#16)
  | .extMoveFromAur x => some (digitNumber 0x002#12 x)
  | .extMoveToAur x => some (digitNumber 0x003#12 x)
  | .extAtomicAnd x => some (digitNumber 0x004#12 x)
  | .extAtomicOr x => some (digitNumber 0x005#12 x)
  | .extAtomicXor x => some (digitNumber 0x006#12 x)
  | .extAtomicAdd x => some (digitNumber 0x007#12 x)
  | .extLoadLink x => some (digitNumber 0x00a#12 x)
  | .extStoreConditional x => some (digitNumber 0x00b#12 x)
  | .extSystemCall _ => some (.four 0x7fffffff#32)
  | .extHartId => some (.two 0x8010#16)
  | .extMoveFromAsr x => some (digitNumber 0x802#12 x)
  | .extMoveToAsr x => some (digitNumber 0x803#12 x)
  | .extTlbClearAll => some (.two 0x8040#16)
  | .extTlbClear x => some (digitNumber 0x805#12 x)
  | .extTlbGet x => some (digitNumber 0x806#12 x)
  | .extTlbSet x => some (digitNumber 0x807#12 x)
  | .extCheckExtension _ => some (.four 0xffffffff#32)
  | .null | .trace | .halt | .ext | .mfsr | .mtsr | .shl | .shr | .jumpa | .calla | .ret | .retl | .mflr | .mtlr
  | .pc | .nop | .test _ | .mf _ | .mt _ | .and _ | .or _ | .xor _ | .add _ | .jump _ _ | .call _ _ | .ld _ _
  | .st _ _ | .andi _ _ | .ori _ _ | .xori _ _ | .addi _ _ => none

/-- The argument bits of an action, in the places of the action word that its row names (R134, R137, R147, R155). -/
def Instr.actionArgs : Instr → Word
  | .extDataFence flags => 0#16 ++ flags ++ 0#40
  | .extSystemCall free => 0#32 ++ free
  | .extCheckExtension n => 0#32 ++ n.lead
  | .extInstructionFence | .extMoveFromAur _ | .extMoveToAur _ | .extAtomicAnd _ | .extAtomicOr _ | .extAtomicXor _
  | .extAtomicAdd _ | .extLoadLink _ | .extStoreConditional _ | .extHartId | .extMoveFromAsr _ | .extMoveToAsr _
  | .extTlbClearAll | .extTlbClear _ | .extTlbGet _ | .extTlbSet _
  | .null | .trace | .halt | .ext | .mfsr | .mtsr | .shl | .shr | .jumpa | .calla | .ret | .retl | .mflr | .mtlr
  | .pc | .nop | .test _ | .mf _ | .mt _ | .and _ | .or _ | .xor _ | .add _ | .jump _ _ | .call _ _ | .ld _ _
  | .st _ _ | .andi _ _ | .ori _ _ | .xori _ _ | .addi _ _ => 0#64

/-- R130: the value of `sr` that names an action, every bit the action does not name zero. -/
def encodeAction (i : Instr) : Option Word :=
  match i.actionNumber with
  | some n => some (n.word ||| i.actionArgs)
  | none => none

/-! ## The opcode table's own numbering -/

/-- Byte `k` of a number, byte 0 the lowest. -/
def byteOf (w k : Nat) : Byte := BitVec.ofNat 8 (w / 256 ^ k)

/-- The three bytes an instruction of space `opcode` may occupy, first byte lowest in `w` (R81). -/
def tableBytes (nbits w : Nat) : List Byte :=
  [byteOf (w % 2 ^ nbits) 0, byteOf (w % 2 ^ nbits) 1, byteOf (w % 2 ^ nbits) 2]

/-- A row of more bits than the longest instruction is a row of space `ext`, whose word is the value of `sr` (R81,
R82). Log entry 36. -/
def isActionRow (nbits : Nat) : Bool := 24 < nbits

/-- The instruction of a row of `spec/opcode_table.json` whose bits are `w`, read by this decoder. -/
def decodeTableWord (nbits w : Nat) : Option Instr :=
  if isActionRow nbits then (decodeAction (BitVec.ofNat 64 w)).toOption
  else (decode (tableBytes nbits w)).toOption.map Prod.fst

end Sys2Proof
end

