-- ==== Sys2Proof/Config.lean ====
section
/-! DEFINITION. What an implementation of Oort fixes (`00_scope.md` R2 and section 4) and the free values.

Two kinds of thing stand here. `Params` is the plain data of the implementation parameters that decide which
behaviour applies: a state carries one `Params` and no step changes it, so a statement about every state is a
statement about every choice of them. The opaque constants are the values no source gives and no claim may know. -/
namespace Sys2Proof

/-- R2: the implemented machine alone, or that machine with the material the manual marks "not yet implemented". -/
inductive Profile where
  | base
  | extended
deriving DecidableEq, Repr

/-- The two privilege levels (`60_exceptions.md` R196). -/
inductive Privilege where
  | user
  | supervisor
deriving DecidableEq, Repr

/-- The kinds of access a TLB entry permits or forbids (`20_memory.md` R52, R55). -/
inductive Access where
  | read
  | write
  | execute
deriving DecidableEq, Repr

/-- A run of extension numbers of one length, both ends included. -/
inductive NumRange where
  | two (lo hi : BitVec 16)
  | four (lo hi : BitVec 32)
deriving DecidableEq, Repr

/-- A run of aligned 8-byte blocks: the block of byte address `a` has number `a / 8`. -/
structure Region where
  first : Nat
  count : Nat
deriving DecidableEq, Repr

/-- The parameters `EXC_NULL`, `EXC_TRACE`, `EXC_EXT_INVALID`, `EXC_EXT_PRIV`, `EXC_SYSCALL` and `INT_PROT`
(`60_exceptions.md` R185) together with `TRAP_ENTRY` (R186). A number says that the event enters through that entry
of the interrupt table; no number says that it ends the run, as R182 has it for BASE. Log entry 15. -/
structure TrapEntry where
  excNull : Option (BitVec 8)
  excTrace : Option (BitVec 8)
  excExtInvalid : Option (BitVec 8)
  excExtPriv : Option (BitVec 8)
  excSyscall : Option (BitVec 8)
  intProt : Option (BitVec 8)
deriving DecidableEq, Repr

/-- A register whose value interrupt entry may save (R192). -/
inductive SaveSource where
  | pc
  | acc
  | sr
  | lr
  | gpr (x : Reg)
  | aur (x : Fin 16)
  | asr (x : Fin 16)
deriving DecidableEq, Repr

/-- An auxiliary register that interrupt entry may save into. Log entry 16. -/
inductive SaveTarget where
  | aur (x : Fin 16)
  | asr (x : Fin 16)
deriving DecidableEq, Repr

/-- What the manual leaves open about when an address is translated (`20_memory.md` R57): data accesses and fetches
at each level, and the read of the interrupt table, which is either untranslated or done at a level. Log entry 20. -/
structure Translation where
  userData : Bool
  userFetch : Bool
  supervisorData : Bool
  supervisorFetch : Bool
  table : Option Privilege
deriving DecidableEq, Repr

/-- The implementation parameters (`00_scope.md` section 4) that decide which behaviour applies. -/
structure Params where
  /-- `PROFILE` (R2). -/
  profile : Profile
  /-- `EXT_IMPLEMENTED`, a set of extension numbers (R92, R131); without force in BASE. -/
  extImplemented : List NumRange
  /-- `MEM_MAP`, the backed blocks (`20_memory.md` R46). -/
  memMap : List Region
  /-- `TLB_WAYS`, the manual's n (`20_memory.md` R50). -/
  tlbWays : Nat
  /-- `TRAP_ENTRY` and the six event numbers (R185, R186); without force in BASE. -/
  trapEntry : TrapEntry
  /-- `INT_SAVE`, what interrupt entry saves and where (R192). -/
  intSave : List (SaveSource × SaveTarget)
  /-- The translation parameters of R57; without force in BASE. -/
  translation : Translation
deriving DecidableEq, Repr

namespace Config

/-- `IO_BASE` (`20_memory.md` R47). -/
def ioBase : Nat := 0xffff_0000_0000_0000

/-- `ENTRY_PC` (`70_reset_and_hazards.md` R206), open in the spec. DESIGN CHOICE: the address at which the programs
of `95_test_vectors.md` section 3 are loaded. Log entry 4. -/
def entryPc : Word := 0x1000#64

/-- What a backed byte that nothing has written reads as. DESIGN CHOICE, unsafe. Log entry 3. -/
def launchByte : Byte := 0#8

/-- No event has a number: every trap ends the run (R182, R186). -/
def noTrapEntry : TrapEntry :=
  { excNull := none, excTrace := none, excExtInvalid := none, excExtPriv := none, excSyscall := none
    intProt := none }

/-- Nothing is translated: the machine of BASE (`20_memory.md` R49). -/
def noTranslation : Translation :=
  { userData := false, userFetch := false, supervisorData := false, supervisorFetch := false, table := none }

/-- The numbers of the 19 assigned actions (`44_extensions.md` R136). -/
def allActions : List NumRange :=
  [.two 0x0010#16 0x0011#16, .two 0x0020#16 0x007f#16, .two 0x00a0#16 0x00bf#16,
   .four 0x7fffffff#32 0x7fffffff#32, .two 0x8010#16 0x8010#16, .two 0x8020#16 0x803f#16,
   .two 0x8040#16 0x8040#16, .two 0x8050#16 0x807f#16, .four 0xffffffff#32 0xffffffff#32]

/-- The parameters of `State.reset`. DESIGN CHOICE: the EXTENDED profile with every assigned action, all memory
below the I/O region backed, two TLB ways, no event number, nothing saved, no translation. Log entries 1, 2, 8, 15,
16 and 20. -/
def launch : Params :=
  { profile := .extended
    extImplemented := allActions
    memMap := [{ first := 0, count := ioBase / 8 }]
    tlbWays := 2
    trapEntry := noTrapEntry
    intSave := []
    translation := noTranslation }

/-- `SFR_SUPERVISOR_BIT`: which bit of `asr0` is "the supervisor bit" (`10_state.md` R25), given by no source. -/
opaque supervisorBit : Fin 64

/-- `HART_ID` (`44_extensions.md` R148), given by no source. -/
opaque hartId : Word

/-- `TLB_EVICT` (`44_extensions.md` R154): the n-th choice of the line a TLB set replaces in a full set. -/
opaque tlbEvict : Nat → Nat

/-- Whether the reservation is lost at the n-th occasion on which it may be (`44_extensions.md` R146,
`93_implementation_defined.md` U11). -/
opaque reservationLost : Nat → Bool

/-- What a read of a reserved auxiliary register returns (`93_implementation_defined.md` U6, U7: "any value"), by the
number of the free value and the value last written. -/
opaque reservedRead : Nat → Word → Word

/-- What `pfar` holds after a protection violation (`10_state.md` R27: the name is all that is given). -/
opaque pfarAfterViolation : Nat → Word

end Config

end Sys2Proof
end

