-- ==== Sys2Proof/Machine/State.lean ====
section
/-! DEFINITION. The state of the machine (`10_state.md`), the reasons a step stops, and the state after reset. -/
namespace Sys2Proof.Machine

/-- The synchronous events of Oort with the value each carries (`60_exceptions.md` R181, R185). -/
inductive TrapCause where
  /-- `null` (R89). -/
  | nullTrap
  /-- `trace` (R90). -/
  | traceTrap
  /-- `ext` whose word in `sr` names no implemented action (R92, R136); the word. -/
  | extInvalid (w : Word)
  /-- `ext` of a supervisor-level action without the supervisor bit (R133); the word. -/
  | extPriv (w : Word)
  /-- The system call action (R147); the word. -/
  | syscall (w : Word)
  /-- An access the flags of its TLB entry disallow (`20_memory.md` R56); the virtual address it was made at. DESIGN
  CHOICE: R185 leaves the value this event carries unspecified (log entry 46). -/
  | protection (va : Word)
deriving DecidableEq, Repr

/-- The outcomes of R203 that end a run, each one the spec's own. -/
inductive Fault where
  /-- R182: raised by `null`, `trace`, `ext` and, with translation, by any access, where `TRAP_ENTRY` gives the event
  no table entry (in BASE it never does). Nothing has changed and the program counter names the instruction. Safe:
  the spec ends the run here. -/
  | trapped (cause : TrapCause) (pc : Word)
  /-- R183, R218: raised by the step of a halted processor that no interrupt wakes, the normal end of a run. Safe: the
  processor takes no step. -/
  | halted (pc : Word)
  /-- R184: raised by a fetch, a load, a store, an atomic action or the read of the interrupt table that touches a
  block outside `MEM_MAP`; the program counter and the address. Safe: the spec ends the run here. -/
  | memUnmapped (pc addr : Word)
deriving DecidableEq, Repr

/-- What the model does not run. -/
inductive Refusal where
  /-- An instruction that has no meaning in this model; raised by no arm of `exec`. Safe. -/
  | notModelled (mnemonic : String)
  /-- `20_memory.md` R57: raised by a translated access whose address no TLB entry maps. No source says what happens
  on a TLB miss. Safe: the machine goes on in some way the model does not claim to know. -/
  | tlbMiss (pc va : Word)
  /-- `20_memory.md` R53, `93_implementation_defined.md` U9: raised by a translated access through an entry whose bit
  11 is clear or whose bit 7 or 3 is set. No source says what such an entry maps. Safe, as above. -/
  | malformedTlbEntry (pc va : Word)
  /-- `60_exceptions.md` R194: raised by the entry through table entry `n` when the TLB forbids the read of the table.
  An event inside the entry of an event is not discussed by any source. Safe, as above. -/
  | tableForbidden (pc : Word) (n : BitVec 8)
  /-- `20_memory.md` R47, `93_implementation_defined.md` U20: raised in EXTENDED by a fetch, a load, a store, an atomic
  action or the read of the interrupt table whose physical address lies in the I/O region. No source defines a device
  there. Safe, as above. -/
  | ioRegion (pc addr : Word)
deriving DecidableEq, Repr

/-- A valid TLB line (`20_memory.md` R50 to R52): the tag it answers to and the 64-bit entry. DESIGN CHOICE: a line
carries no address-space id, whose existence R57 leaves open (log entry 43). -/
structure TlbLine where
  tag : BitVec 48
  entry : Word
deriving DecidableEq, Repr

/-- The state of the machine: the 20 registers (R13), the auxiliary registers (R22 to R27), the hidden state of R28
to R30, memory (R33), the parameters, and two fields of the model's own. -/
structure State where
  /-- The implementation parameters; no step changes them. -/
  params : Params
  /-- R14: the address of the first byte of the instruction to execute. -/
  pc : Word
  /-- R16. -/
  acc : Word
  /-- R17. -/
  sr : Word
  /-- R18. -/
  lr : Word
  /-- R19: `gpr[0]` to `gpr[15]`. -/
  gpr : Vector Word 16
  /-- R23: `aur0` to `aur15`, all reserved. -/
  aur : Vector Word 16
  /-- R25: `asr0`, the supervisor flags register. -/
  sfr : Word
  /-- R26: `asr1`, the interrupt table register, whose low 12 bits are not stored. -/
  itr : BitVec 52
  /-- R27: `asr2`, the page fault address register. -/
  pfar : Word
  /-- R24: `asr3` to `asr15`, reserved. -/
  asrReserved : Vector Word 13
  /-- R30, R183: the halted condition. -/
  halted : Bool
  /-- R28: the aligned block a load-link has reserved, if any. -/
  reservation : Option Word
  /-- R29, `20_memory.md` R50: the sixteen sets of the TLB, each the list of its valid lines. -/
  tlb : Vector (List TlbLine) 16
  /-- R30, R33: the bytes of physical memory that differ from `Config.launchByte`, by rising address. -/
  mem : List Host.Cell
  /-- The model's own: interrupt numbers the outside has sent and the processor has not yet taken. Log entry 19. -/
  irq : List (BitVec 8)
  /-- The model's own: how many free values have been drawn. Log entry 40. -/
  freeCount : Nat
deriving DecidableEq, Repr

/-- The state right after reset. R31 gives no register a value; what stands here is named in log entries 1 to 8, 19
and 40. That no interrupt is pending is the model's DESIGN CHOICE (log entry 19), since R31 and R190 give no value. `sfr` has every bit set so that the processor starts at supervisor level (R208) whatever the place of the
supervisor bit. -/
def State.reset : State :=
  { params := Config.launch
    pc := Config.entryPc
    acc := 0
    sr := 0
    lr := 0
    gpr := Vector.replicate 16 0
    aur := Vector.replicate 16 0
    sfr := 0xffff_ffff_ffff_ffff#64
    itr := 0
    pfar := 0
    asrReserved := Vector.replicate 13 0
    halted := false
    reservation := none
    tlb := Vector.replicate 16 []
    mem := []
    irq := []
    freeCount := 0 }

end Sys2Proof.Machine
end

