-- ==== Sys2Proof/Machine/Flags.lean ====
section
/-! DEFINITION. Oort has no flags register and no condition codes (`10_state.md` R20). What stands in their place is
COND, a predicate of the accumulator that is evaluated anew by each instruction that carries a condition
(`30_encoding.md` R74). -/
namespace Sys2Proof.Machine

/-- R74: the number of the set the accumulator falls in, `{ acc[63], (acc[62:0] != 0) }`. -/
def accSet (acc : Word) : BitVec 2 :=
  BitVec.ofBool acc.msb ++ BitVec.ofBool (acc.extractLsb' 0 63 != 0#63)

/-- R74: `COND(c)`, bit `s` of `c` for an accumulator in set `s`. -/
def condHolds (c : Cond) (acc : Word) : Bool := c.getLsbD (accSet acc).toNat

/-- R107: the value `test` writes for a condition, `-1` or `0`. -/
def truthWord (b : Bool) : Word := if b then Word.minusOne else 0#64

end Sys2Proof.Machine
end

