-- ==== Sys2Proof/Machine/Operands.lean ====
section
/-! DEFINITION. The operand forms: the two extensions of the immediate (`30_encoding.md` R72, R73), the general
registers (`10_state.md` R19), the one addressing mode (`42_control_and_memory.md` R121), the address of the next
instruction (R15), and the parts of an address and of a TLB entry (`20_memory.md` R36, R51, R52). -/
namespace Sys2Proof.Machine

/-! ## Immediates -/

/-- R72: SIMM, the immediate sign-extended to 64 bits. -/
def simm (imm : Imm) : Word := imm.signExtend 64

/-- `rep_N(b)`: one bit repeated (`00_scope.md` R7). -/
def rep (n : Nat) (b : Bool) : BitVec n := if b then BitVec.allOnes n else 0#n

/-- R73, first half: the 32-bit half that holds the immediate. -/
def ximmHalf (m : Mode) (imm : Imm) : BitVec 32 :=
  if m.getLsbD 2 then imm ++ rep 16 (m.getLsbD 0) else rep 16 (m.getLsbD 0) ++ imm

/-- R73: XIMM, the immediate as the mode extends it. -/
def ximm (m : Mode) (imm : Imm) : Word :=
  if m.getLsbD 3 then ximmHalf m imm ++ rep 32 (m.getLsbD 1) else rep 32 (m.getLsbD 1) ++ ximmHalf m imm

/-! ## Registers and the next instruction -/

/-- R19: the read of a general register. -/
def State.readGpr (s : State) (x : Reg) : Word := s.gpr[x]

/-- R15: `next_pc` before the instruction assigns it, `pc` plus the length of the instruction, modulo `2^64`. -/
def State.nextPc (s : State) (len : Nat) : Word := s.pc + BitVec.ofNat 64 len

/-- R118, R119: ADDR, the value of the base register plus SIMM, modulo `2^64`. -/
def State.effAddr (s : State) (x : Reg) (imm : Imm) : Word := s.readGpr x + simm imm

/-! ## Addresses -/

/-- R36: `B(a)`, the address of the aligned 8-byte block of `a`. -/
def blockOf (a : Word) : Word := a.extractLsb' 3 61 ++ 0#3

/-- R36: `k`, the rotation count in bytes. -/
def rotCount (a : Word) : Nat := (a.extractLsb' 0 3).toNat

/-- R51: the tag of a virtual address, bits 63 to 16. -/
def tagOf (va : Word) : BitVec 48 := va.extractLsb' 16 48

/-- R51: the set of a virtual address, bits 15 to 12. -/
def tlbSetOf (va : Word) : Fin 16 := (va.extractLsb' 12 4).toFin

/-! ## TLB entries -/

/-- R52, R55: the permission bit of an access at a level: R, W, X are bits 6, 5, 4 for supervisor and 2, 1, 0 for
user. -/
def permits (entry : Word) (k : Access) (p : Privilege) : Bool :=
  match p, k with
  | .supervisor, .read => entry.getLsbD 6
  | .supervisor, .write => entry.getLsbD 5
  | .supervisor, .execute => entry.getLsbD 4
  | .user, .read => entry.getLsbD 2
  | .user, .write => entry.getLsbD 1
  | .user, .execute => entry.getLsbD 0

/-- R52, R53: bit 11 is always 1, bits 7 and 3 are always 0. -/
def entryFormed (entry : Word) : Bool := entry.getLsbD 11 && !entry.getLsbD 7 && !entry.getLsbD 3

/-- R55: the physical address, the page of the entry and the 12 untranslated bits. -/
def physicalOf (entry va : Word) : Word := entry.extractLsb' 12 52 ++ va.extractLsb' 0 12

/-- R189: the address of entry `n` of the interrupt table. -/
def tableEntryAddr (itr : BitVec 52) (n : BitVec 8) : Word := (itr ++ 0#12 : Word) + (n.setWidth 64 <<< 4)

end Sys2Proof.Machine
end

