-- ==== Sys2Proof/Machine/Memory.lean ====
section
/-! DEFINITION. Physical memory as a list of cells in one canonical form, and the rotated 64-bit access
(`20_memory.md` R33 to R41). -/
namespace Sys2Proof.Machine

/-- A byte of memory; an address that no cell lists reads as `Config.launchByte` (log entry 3). -/
def Memory.read : List Host.Cell → Nat → Byte
  | [], _ => Config.launchByte
  | (b, v) :: rest, a => if a = b then v else Memory.read rest a

/-- The cells with one more in front, unless its value is what an unlisted address reads as. -/
def Memory.cons (a : Nat) (v : Byte) (m : List Host.Cell) : List Host.Cell :=
  if v = Config.launchByte then m else (a, v) :: m

/-- The write of a byte, which keeps the canonical form. -/
def Memory.write : List Host.Cell → Nat → Byte → List Host.Cell
  | [], a, v => Memory.cons a v []
  | (b, w) :: rest, a, v =>
    if a < b then Memory.cons a v ((b, w) :: rest)
    else if a = b then Memory.cons a v rest
    else (b, w) :: Memory.write rest a v

/-- The canonical form: addresses strictly rise and lie in the address space (R33), and no cell holds what an
unlisted address reads as. -/
abbrev Memory.wf (m : List Host.Cell) : Prop :=
  m.Pairwise (fun c d => c.1 < d.1) ∧ ∀ c ∈ m, c.1 < 2 ^ 64 ∧ c.2 ≠ Config.launchByte

/-- R38: the block at a block address as a little-endian word. -/
def Memory.readBlock (m : List Host.Cell) (b : Word) : Word :=
  Memory.read m (b + 7).toNat ++ Memory.read m (b + 6).toNat ++ Memory.read m (b + 5).toNat
    ++ Memory.read m (b + 4).toNat ++ Memory.read m (b + 3).toNat ++ Memory.read m (b + 2).toNat
    ++ Memory.read m (b + 1).toNat ++ Memory.read m (b + 0).toNat

/-- Byte `i` of a value (`00_scope.md` R3). -/
def wordByte (w : Word) (i : Nat) : Byte := w.extractLsb' (8 * i) 8

/-- R39: the eight bytes of a word into the block at a block address. -/
def Memory.writeBlock (m : List Host.Cell) (b : Word) (w : Word) : List Host.Cell :=
  [0, 1, 2, 3, 4, 5, 6, 7].foldl (fun m i => Memory.write m (b + BitVec.ofNat 64 i).toNat (wordByte w i)) m

/-- R38: `MemRead(a, 8)`, the rotated read. -/
def Memory.readRotated (m : List Host.Cell) (a : Word) : Word :=
  (Memory.readBlock m (blockOf a)).rotateRight (8 * rotCount a)

/-- R39: `MemWrite(a, 8, v)`, the rotated write. -/
def Memory.writeRotated (m : List Host.Cell) (a v : Word) : List Host.Cell :=
  Memory.writeBlock m (blockOf a) (v.rotateLeft (8 * rotCount a))

/-- R41: the byte at a physical address, with no rotation. -/
def State.memByte (s : State) (a : Word) : Byte := Memory.read s.mem a.toNat

end Sys2Proof.Machine
end

