-- ==== Sys2Proof/Machine/Ops.lean ====
section
/-! DEFINITION. The named operations the meanings are written in: the writes of a field, address translation and
`MEM_MAP`, the data access, the reservation, the TLB, the auxiliary registers, and the taking of an exception or an
interrupt (`60_exceptions.md`). Oort has no return from an exception (R194), so no operation stands for one. -/
namespace Sys2Proof.Machine

/-- The outcome of an instruction or of a step. -/
abbrev Result := Host.Outcome State Fault Refusal

/-- Why an operation inside an instruction gives no value. -/
inductive Stop where
  | trap (cause : TrapCause)
  | unmapped (addr : Word)
  | tlbMiss (va : Word)
  | malformedEntry (va : Word)
  | ioRegion (addr : Word)
deriving DecidableEq, Repr

/-! ## Writes of one field -/

def State.setPc (s : State) (v : Word) : State := { s with pc := v }

def State.setAcc (s : State) (v : Word) : State := { s with acc := v }

def State.setSr (s : State) (v : Word) : State := { s with sr := v }

def State.setLr (s : State) (v : Word) : State := { s with lr := v }

/-- R19: the write of a general register. -/
def State.setGpr (s : State) (x : Reg) (v : Word) : State := { s with gpr := s.gpr.set x v }

def State.setAur (s : State) (x : Fin 16) (v : Word) : State := { s with aur := s.aur.set x v }

def State.setSfr (s : State) (v : Word) : State := { s with sfr := v }

def State.setItr (s : State) (v : BitVec 52) : State := { s with itr := v }

def State.setPfar (s : State) (v : Word) : State := { s with pfar := v }

def State.setAsrReserved (s : State) (k : Fin 13) (v : Word) : State :=
  { s with asrReserved := s.asrReserved.set k v }

def State.setHalted (s : State) (v : Bool) : State := { s with halted := v }

def State.setReservation (s : State) (v : Option Word) : State := { s with reservation := v }

def State.setTlbSet (s : State) (k : Fin 16) (v : List TlbLine) : State := { s with tlb := s.tlb.set k v }

def State.setMem (s : State) (m : List Host.Cell) : State := { s with mem := m }

def State.setIrq (s : State) (v : List (BitVec 8)) : State := { s with irq := v }

/-- The next free value will be another one (log entry 40). -/
def State.drawn (s : State) : State := { s with freeCount := s.freeCount + 1 }

/-! ## Privilege and `MEM_MAP` -/

/-- R133: `Supervisor()`. -/
def State.supervisor (s : State) : Bool := s.sfr.getLsbD Config.supervisorBit

/-- R196: the level of the processor. -/
def State.privilege (s : State) : Privilege := if s.supervisor then .supervisor else .user

def Region.holds (r : Region) (block : Nat) : Bool := r.first ≤ block && block < r.first + r.count

/-- R46: the block of the address is in `MEM_MAP`. -/
def State.backed (s : State) (a : Word) : Bool := s.params.memMap.any (fun r => Region.holds r (a.toNat / 8))

/-- R47, U20: in EXTENDED the addresses from `IO_BASE` up belong to devices; in BASE they are ordinary addresses (log
entry 38). -/
def State.inIoRegion (s : State) (a : Word) : Bool :=
  match s.params.profile with
  | .base => false
  | .extended => Config.ioBase ≤ a.toNat

/-! ## The TLB (R50 to R55, R151 to R154) -/

/-- R50: the set in which a virtual address may be present. -/
def State.tlbLines (s : State) (va : Word) : List TlbLine := s.tlb[tlbSetOf va]

/-- R55, R153: the entry of the set whose tag equals the tag of the address, if one is present. -/
def State.tlbFind (s : State) (va : Word) : Option Word :=
  ((s.tlbLines va).find? (fun l => l.tag == tagOf va)).map TlbLine.entry

/-- R151: every entry invalid. -/
def State.tlbClearAll (s : State) : State := { s with tlb := Vector.replicate 16 [] }

/-- R152: the entry of an address invalid, if present. -/
def State.tlbClear (s : State) (va : Word) : State :=
  s.setTlbSet (tlbSetOf va) ((s.tlbLines va).filter (fun l => l.tag != tagOf va))

/-- R154: the entry of an address set: an entry with the tag is replaced; else the line takes a free way; else it
takes the place of a line of `TLB_EVICT`'s choice (log entries 11 and 37). -/
def State.tlbSet (s : State) (va entry : Word) : State :=
  let lines := s.tlbLines va
  let line : TlbLine := { tag := tagOf va, entry := entry }
  if lines.any (fun l => l.tag == line.tag) then
    s.setTlbSet (tlbSetOf va) (lines.map (fun l => if l.tag == line.tag then line else l))
  else if lines.length < s.params.tlbWays then
    s.setTlbSet (tlbSetOf va) (lines ++ [line])
  else
    (s.setTlbSet (tlbSetOf va) (lines.set (Config.tlbEvict s.freeCount % lines.length) line)).drawn

/-! ## Translation and the data access -/

/-- R57: whether an access at a level is translated, as the parameters say (log entry 20). Never in BASE (R49). -/
def State.translated (s : State) (k : Access) (p : Privilege) : Bool :=
  match s.params.profile with
  | .base => false
  | .extended =>
    match k with
    | .execute =>
      (s.params.translation.userFetch && p == .user) || (s.params.translation.supervisorFetch && p == .supervisor)
    | .read | .write =>
      (s.params.translation.userData && p == .user) || (s.params.translation.supervisorData && p == .supervisor)

/-- R55, R56: the physical address of an access through the TLB. DESIGN CHOICE: a protection violation carries the
virtual address the access was made at, where R185 leaves the value unspecified (log entry 46). -/
def State.translate (s : State) (k : Access) (p : Privilege) (va : Word) : Except Stop Word :=
  match s.tlbFind va with
  | none => .error (.tlbMiss va)
  | some e =>
    if entryFormed e then
      if permits e k p then .ok (physicalOf e va) else .error (.trap (.protection va))
    else .error (.malformedEntry va)

/-- R46, R47: an address outside the I/O region whose block is backed; a stop names the address the access was made
at. -/
def State.mapped (s : State) (va pa : Word) : Except Stop Word :=
  if s.inIoRegion pa then .error (.ioRegion va)
  else if s.backed pa then .ok pa else .error (.unmapped va)

/-- The physical address of an access, translated or not. -/
def State.locateWith (s : State) (on : Bool) (k : Access) (p : Privilege) (va : Word) : Except Stop Word :=
  if on then
    match s.translate k p va with
    | .ok pa => s.mapped va pa
    | .error e => .error e
  else s.mapped va va

/-- The physical address of an access by the running program. -/
def State.locate (s : State) (k : Access) (va : Word) : Except Stop Word :=
  s.locateWith (s.translated k s.privilege) k s.privilege va

/-- R38, R118: the load of the 64 bits at an address. -/
def State.load (s : State) (va : Word) : Except Stop Word :=
  match s.locate .read va with
  | .ok pa => .ok (Memory.readRotated s.mem pa)
  | .error e => .error e

/-- R39, R119: memory after the store of 64 bits at an address. -/
def State.store (s : State) (va v : Word) : Except Stop (List Host.Cell) :=
  match s.locate .write va with
  | .ok pa => .ok (Memory.writeRotated s.mem pa v)
  | .error e => .error e

/-- R146, U11: an occasion on which a reservation that is held may be lost (log entry 12). -/
def State.mayLoseReservation (s : State) : State :=
  match s.reservation with
  | none => s
  | some b => (s.setReservation (if Config.reservationLost s.freeCount then none else some b)).drawn

/-! ## Auxiliary registers (R22 to R27) -/

/-- R24 to R27: the value an auxiliary supervisor register holds; `asr1` reads with its low 12 bits zero. -/
def State.asrValue (s : State) : Fin 16 → Word
  | ⟨0, _⟩ => s.sfr
  | ⟨1, _⟩ => s.itr ++ 0#12
  | ⟨2, _⟩ => s.pfar
  | ⟨k + 3, h⟩ => s.asrReserved[k]'(by omega)

/-- R150: the write of an auxiliary supervisor register; of a value for `asr1` only bits 63 to 12 are kept. -/
def State.setAsr (s : State) (x : Fin 16) (v : Word) : State :=
  match x with
  | ⟨0, _⟩ => s.setSfr v
  | ⟨1, _⟩ => s.setItr (v.extractLsb' 12 52)
  | ⟨2, _⟩ => s.setPfar v
  | ⟨k + 3, h⟩ => s.setAsrReserved ⟨k, by omega⟩ v

/-- R24: `asr0` to `asr2` are defined; so is a register that `INT_SAVE` defines (log entry 16). -/
def State.asrDefined (s : State) (x : Fin 16) : Bool :=
  x.val < 3 || s.params.intSave.any (fun p => p.2 == .asr x)

/-- R23: no auxiliary user register is defined but one that `INT_SAVE` defines (log entry 16). -/
def State.aurDefined (s : State) (x : Fin 16) : Bool := s.params.intSave.any (fun p => p.2 == .aur x)

/-- U6, U7: a read of an auxiliary register into the accumulator; a reserved one reads as any value (log entry
13). -/
def State.readAuxIntoAcc (s : State) (defined : Bool) (held : Word) : State :=
  if defined then s.setAcc held else (s.setAcc (Config.reservedRead s.freeCount held)).drawn

/-! ## Taking an exception or an interrupt -/

/-- R189, R191: the word of the interrupt table at an address, read at the level R57 leaves open (log entry 20). -/
def State.tableWord (s : State) (a : Word) : Except Stop Word :=
  match s.locateWith s.params.translation.table.isSome .read (s.params.translation.table.getD .supervisor) a with
  | .ok pa => .ok (Memory.readRotated s.mem pa)
  | .error e => .error e

/-- R191: the new `pc` and the new `asr0` of table entry `n`. -/
def State.tableEntry (s : State) (n : BitVec 8) : Except Stop (Word × Word) :=
  match s.tableWord (tableEntryAddr s.itr n) with
  | .error e => .error e
  | .ok newPc =>
    match s.tableWord (tableEntryAddr s.itr n + 8) with
    | .error e => .error e
    | .ok newSfr => .ok (newPc, newSfr)

/-- The value of a register that entry may save. -/
def State.saveValue (s : State) : SaveSource → Word
  | .pc => s.pc
  | .acc => s.acc
  | .sr => s.sr
  | .lr => s.lr
  | .gpr x => s.readGpr x
  | .aur x => s.aur[x]
  | .asr x => s.asrValue x

/-- The write of a register that entry may save into. -/
def State.saveInto (s : State) (t : SaveTarget) (v : Word) : State :=
  match t with
  | .aur x => s.setAur x v
  | .asr x => s.setAsr x v

/-- The value a register that entry may save into holds. -/
def State.targetValue (s : State) : SaveTarget → Word
  | .aur x => s.aur[x]
  | .asr x => s.asrValue x

/-- R23, R24: a register that entry may save into is a defined one (log entry 16). -/
def State.targetDefined (s : State) : SaveTarget → Bool
  | .aur x => s.aurDefined x
  | .asr x => s.asrDefined x

/-- R192: what entry saves, every value taken from the state before the entry (log entry 16). -/
def State.saveContext (s : State) : State :=
  s.params.intSave.foldl (fun t p => t.saveInto p.2 (s.saveValue p.1)) s

/-- R191: the state after entry with the two words of a table entry. -/
def State.entered (s : State) (newPc newSfr : Word) : State :=
  (((s.saveContext.mayLoseReservation).setPc newPc).setSfr newSfr).setHalted false

/-- An entry whose table cannot be read. -/
def State.entryStop (s : State) (n : BitVec 8) : Stop → Result
  | .trap _ => .refused (.tableForbidden s.pc n)
  | .unmapped a => .fault (.memUnmapped s.pc a)
  | .tlbMiss a => .refused (.tlbMiss s.pc a)
  | .malformedEntry a => .refused (.malformedTlbEntry s.pc a)
  | .ioRegion a => .refused (.ioRegion s.pc a)

/-- R191: entry through table entry `n`, for an interrupt and, by `TRAP_ENTRY`, for an exception (R186). -/
def State.enter (s : State) (n : BitVec 8) : Result :=
  match s.tableEntry n with
  | .ok (newPc, newSfr) => .next (s.entered newPc newSfr)
  | .error e => s.entryStop n e

/-- R185, R186: the table entry of an event, if it has one. No event has one in BASE (R182). -/
def State.trapNumber (s : State) (c : TrapCause) : Option (BitVec 8) :=
  match s.params.profile with
  | .base => none
  | .extended =>
    match c with
    | .nullTrap => s.params.trapEntry.excNull
    | .traceTrap => s.params.trapEntry.excTrace
    | .extInvalid _ => s.params.trapEntry.excExtInvalid
    | .extPriv _ => s.params.trapEntry.excExtPriv
    | .syscall _ => s.params.trapEntry.excSyscall
    | .protection _ => s.params.trapEntry.intProt

/-- What a register records of an event: nothing (R185), but `pfar`, of which only the name is known, may hold any
value after a protection violation (R56, log entry 23). -/
def State.recordTrap (s : State) : TrapCause → State
  | .protection _ => (s.setPfar (Config.pfarAfterViolation s.freeCount)).drawn
  | .nullTrap | .traceTrap | .extInvalid _ | .extPriv _ | .syscall _ => s

/-- `raise` (R7): the one way an exception is taken. The instruction has no effect; the run ends in `Trapped` (R182),
or the event enters the table at its entry (R186). DESIGN CHOICE: so it does inside a handler too, and what `INT_SAVE`
saved before is overwritten (R194 leaves nesting open; log entry 45). -/
def State.raise (s : State) (c : TrapCause) : Result :=
  match s.trapNumber c with
  | none => .fault (.trapped c s.pc)
  | some n => (s.recordTrap c).enter n

/-- The outcome of an instruction of which an operation gives no value: the instruction has no effect (R182, R184). -/
def State.stop (s : State) : Stop → Result
  | .trap c => s.raise c
  | .unmapped a => .fault (.memUnmapped s.pc a)
  | .tlbMiss a => .refused (.tlbMiss s.pc a)
  | .malformedEntry a => .refused (.malformedTlbEntry s.pc a)
  | .ioRegion a => .refused (.ioRegion s.pc a)

/-! ## The actions of `ext` -/

def NumRange.holds : NumRange → ExtNumber → Bool
  | .two lo hi, .two n => lo.toNat ≤ n.toNat && n.toNat ≤ hi.toNat
  | .four lo hi, .four n => lo.toNat ≤ n.toNat && n.toNat ≤ hi.toNat
  | .two _ _, .four _ => false
  | .four _ _, .two _ => false

/-- R92, R136: the number is in `EXT_IMPLEMENTED`, which is empty in BASE and holds assigned numbers only (log entry
34). -/
def State.implements (s : State) (n : ExtNumber) : Bool :=
  match s.params.profile with
  | .base => false
  | .extended => n.assigned && s.params.extImplemented.any (fun r => NumRange.holds r n)

/-- R92: the two checks every action passes first, in this order (D16). -/
def State.gate (s : State) (n : ExtNumber) (action : Result) : Result :=
  if s.implements n then
    if n.supervisorLevel && !s.supervisor then s.raise (.extPriv s.sr) else action
  else s.raise (.extInvalid s.sr)

/-- R141: the atomic read and write of the block at `gpr[x]`; the accumulator keeps the old value of memory (D14). -/
def State.atomic (s : State) (x : Reg) (op : Word → Word → Word) : Result :=
  match s.load (s.readGpr x) with
  | .error e => s.stop e
  | .ok old =>
    match s.store (s.readGpr x) (op s.acc old) with
    | .error e => s.stop e
    | .ok m => .next (((s.mayLoseReservation.setMem m).setAcc old).setPc (s.nextPc 1))

end Sys2Proof.Machine
end

