-- ==== Sys2Proof/Machine/Alu.lean ====
section
/-! DEFINITION. `test`, the register moves and the register and immediate arithmetic (`41_test_move_alu_reg.md`,
`43_alu_imm.md`). -/
namespace Sys2Proof.Machine

/-- A new accumulator, and on to the next instruction. -/
def State.accResult (s : State) (len : Nat) (v : Word) : Result := .next ((s.setAcc v).setPc (s.nextPc len))

/-- R107. -/
def execTest (c : Cond) (s : State) : Result := s.accResult 1 (truthWord (condHolds c s.acc))

/-- R108. -/
def execMf (x : Reg) (s : State) : Result := s.accResult 1 (s.readGpr x)

/-- R109. -/
def execMt (x : Reg) (s : State) : Result := .next ((s.setGpr x s.acc).setPc (s.nextPc 1))

/-- R110. -/
def execAnd (x : Reg) (s : State) : Result := s.accResult 1 (s.acc &&& s.readGpr x)

/-- R111. -/
def execOr (x : Reg) (s : State) : Result := s.accResult 1 (s.acc ||| s.readGpr x)

/-- R112. -/
def execXor (x : Reg) (s : State) : Result := s.accResult 1 (s.acc ^^^ s.readGpr x)

/-- R113. -/
def execAdd (x : Reg) (s : State) : Result := s.accResult 1 (s.acc + s.readGpr x)

/-- R124. -/
def execAndi (m : Mode) (imm : Imm) (s : State) : Result := s.accResult 3 (s.acc &&& ximm m imm)

/-- R125. -/
def execOri (m : Mode) (imm : Imm) (s : State) : Result := s.accResult 3 (s.acc ||| ximm m imm)

/-- R126. -/
def execXori (m : Mode) (imm : Imm) (s : State) : Result := s.accResult 3 (s.acc ^^^ ximm m imm)

/-- R127. -/
def execAddi (m : Mode) (imm : Imm) (s : State) : Result := s.accResult 3 (s.acc + ximm m imm)

end Sys2Proof.Machine
end

