-- ==== Sys2Proof/Machine/Control.lean ====
section
/-! DEFINITION. The conditional jump and call, the load and the store (`42_control_and_memory.md`). -/
namespace Sys2Proof.Machine

/-- R116, R117: the target, the address of the next instruction plus SIMM, modulo `2^64`. -/
def State.relTarget (s : State) (imm : Imm) : Word := s.nextPc 3 + simm imm

/-- R116. -/
def execJump (c : Cond) (imm : Imm) (s : State) : Result :=
  .next (s.setPc (if condHolds c s.acc then s.relTarget imm else s.nextPc 3))

/-- R117: neither the link register nor the target changes when the condition is false. -/
def execCall (c : Cond) (imm : Imm) (s : State) : Result :=
  if condHolds c s.acc then .next ((s.setLr (s.nextPc 3)).setPc (s.relTarget imm))
  else .next (s.setPc (s.nextPc 3))

/-- R118. -/
def execLd (x : Reg) (imm : Imm) (s : State) : Result :=
  match s.load (s.effAddr x imm) with
  | .ok v => .next ((s.mayLoseReservation.setAcc v).setPc (s.nextPc 3))
  | .error e => s.stop e

/-- R119. -/
def execSt (x : Reg) (imm : Imm) (s : State) : Result :=
  match s.store (s.effAddr x imm) s.acc with
  | .ok m => .next ((s.mayLoseReservation.setMem m).setPc (s.nextPc 3))
  | .error e => s.stop e

end Sys2Proof.Machine
end

