-- ==== Sys2Proof/Machine/Ext.lean ====
section
/-! DEFINITION. The actions of `ext` (`44_extensions.md` R137 to R155) and `ext` itself (`40_misc.md` R92). Every
action is an instruction of one byte in memory, so the next instruction is at `pc + 1`. -/
namespace Sys2Proof.Machine

/-- R137: with every access performed at once (R58) there is nothing to order, whatever the flags. -/
def execExtDataFence (_flags : BitVec 8) (s : State) : Result :=
  s.gate (.two 0x0010#16) (.next (s.setPc (s.nextPc 1)))

/-- R138: the fetch sees every earlier store at once (R61). -/
def execExtInstructionFence (s : State) : Result :=
  s.gate (.two 0x0011#16) (.next (s.setPc (s.nextPc 1)))

/-- R139, U6. -/
def execExtMoveFromAur (x : Fin 16) (s : State) : Result :=
  s.gate (digitNumber 0x002#12 x) (.next ((s.readAuxIntoAcc (s.aurDefined x) s.aur[x]).setPc (s.nextPc 1)))

/-- R140, U6. -/
def execExtMoveToAur (x : Fin 16) (s : State) : Result :=
  s.gate (digitNumber 0x003#12 x) (.next ((s.setAur x s.acc).setPc (s.nextPc 1)))

/-- R141. -/
def execExtAtomicAnd (x : Reg) (s : State) : Result :=
  s.gate (digitNumber 0x004#12 x) (s.atomic x (fun k old => k &&& old))

/-- R142. -/
def execExtAtomicOr (x : Reg) (s : State) : Result :=
  s.gate (digitNumber 0x005#12 x) (s.atomic x (fun k old => k ||| old))

/-- R143. -/
def execExtAtomicXor (x : Reg) (s : State) : Result :=
  s.gate (digitNumber 0x006#12 x) (s.atomic x (fun k old => k ^^^ old))

/-- R144. -/
def execExtAtomicAdd (x : Reg) (s : State) : Result :=
  s.gate (digitNumber 0x007#12 x) (s.atomic x (fun k old => k + old))

/-- R145: the load, and the reservation of the aligned block. -/
def State.loadLink (s : State) (x : Reg) : Result :=
  match s.load (s.readGpr x) with
  | .ok v => .next (((s.setAcc v).setReservation (some (blockOf (s.readGpr x)))).setPc (s.nextPc 1))
  | .error e => s.stop e

/-- R145. -/
def execExtLoadLink (x : Reg) (s : State) : Result :=
  s.gate (digitNumber 0x00a#12 x) (s.loadLink x)

/-- R146: the store if the reservation on the block still holds; the reservation is cleared either way (D14). -/
def State.storeConditional (s : State) (x : Reg) : Result :=
  if s.reservation = some (blockOf (s.readGpr x)) then
    match s.store (s.readGpr x) s.acc with
    | .ok m => .next ((((s.setMem m).setAcc 0).setReservation none).setPc (s.nextPc 1))
    | .error e => s.stop e
  else .next (((s.setAcc Word.minusOne).setReservation none).setPc (s.nextPc 1))

/-- R146. -/
def execExtStoreConditional (x : Reg) (s : State) : Result :=
  s.gate (digitNumber 0x00b#12 x) (s.storeConditional x)

/-- R147: the action is the exception. -/
def execExtSystemCall (_free : BitVec 32) (s : State) : Result :=
  s.gate (.four 0x7fffffff#32) (s.raise (.syscall s.sr))

/-- R148. -/
def execExtHartId (s : State) : Result :=
  s.gate (.two 0x8010#16) (.next ((s.setAcc Config.hartId).setPc (s.nextPc 1)))

/-- R149, U7. -/
def execExtMoveFromAsr (x : Fin 16) (s : State) : Result :=
  s.gate (digitNumber 0x802#12 x) (.next ((s.readAuxIntoAcc (s.asrDefined x) (s.asrValue x)).setPc (s.nextPc 1)))

/-- R150, U7. -/
def execExtMoveToAsr (x : Fin 16) (s : State) : Result :=
  s.gate (digitNumber 0x803#12 x) (.next ((s.setAsr x s.acc).setPc (s.nextPc 1)))

/-- R151. -/
def execExtTlbClearAll (s : State) : Result :=
  s.gate (.two 0x8040#16) (.next (s.tlbClearAll.setPc (s.nextPc 1)))

/-- R152. -/
def execExtTlbClear (x : Reg) (s : State) : Result :=
  s.gate (digitNumber 0x805#12 x) (.next ((s.tlbClear (s.readGpr x)).setPc (s.nextPc 1)))

/-- R153: the entry if present, else 0. -/
def execExtTlbGet (x : Reg) (s : State) : Result :=
  s.gate (digitNumber 0x806#12 x) (.next ((s.setAcc ((s.tlbFind (s.readGpr x)).getD 0)).setPc (s.nextPc 1)))

/-- R154; an entry R53 does not allow is stored as it is (U9, log entry 22). -/
def execExtTlbSet (x : Reg) (s : State) : Result :=
  s.gate (digitNumber 0x807#12 x) (.next ((s.tlbSet (s.readGpr x) s.acc).setPc (s.nextPc 1)))

/-- R155. -/
def execExtCheckExtension (n : ExtNumber) (s : State) : Result :=
  s.gate (.four 0xffffffff#32) (.next ((s.setAcc (truthWord (s.implements n))).setPc (s.nextPc 1)))

/-- R92, R136: `ext` performs the action `sr` names, by the meaning of that action, which makes the two checks. A
word that names no action is an invalid action. -/
def execExt (s : State) : Result :=
  match decodeAction s.sr with
  | .error _ => s.raise (.extInvalid s.sr)
  | .ok i =>
    match i with
    | .extDataFence flags => execExtDataFence flags s
    | .extInstructionFence => execExtInstructionFence s
    | .extMoveFromAur x => execExtMoveFromAur x s
    | .extMoveToAur x => execExtMoveToAur x s
    | .extAtomicAnd x => execExtAtomicAnd x s
    | .extAtomicOr x => execExtAtomicOr x s
    | .extAtomicXor x => execExtAtomicXor x s
    | .extAtomicAdd x => execExtAtomicAdd x s
    | .extLoadLink x => execExtLoadLink x s
    | .extStoreConditional x => execExtStoreConditional x s
    | .extSystemCall free => execExtSystemCall free s
    | .extHartId => execExtHartId s
    | .extMoveFromAsr x => execExtMoveFromAsr x s
    | .extMoveToAsr x => execExtMoveToAsr x s
    | .extTlbClearAll => execExtTlbClearAll s
    | .extTlbClear x => execExtTlbClear x s
    | .extTlbGet x => execExtTlbGet x s
    | .extTlbSet x => execExtTlbSet x s
    | .extCheckExtension n => execExtCheckExtension n s
    | .null | .trace | .halt | .ext | .mfsr | .mtsr | .shl | .shr | .jumpa | .calla | .ret | .retl | .mflr | .mtlr
    | .pc | .nop | .test _ | .mf _ | .mt _ | .and _ | .or _ | .xor _ | .add _ | .jump _ _ | .call _ _ | .ld _ _
    | .st _ _ | .andi _ _ | .ori _ _ | .xori _ _ | .addi _ _ => s.raise (.extInvalid s.sr)

end Sys2Proof.Machine
end

