-- ==== Sys2Proof/Machine/Misc.lean ====
section
/-! DEFINITION. The instructions of the bytes `00` to `0f` (`40_misc.md`) but `ext`, which stands in `Ext`. -/
namespace Sys2Proof.Machine

/-- R89. -/
def execNull (s : State) : Result := s.raise .nullTrap

/-- R90. -/
def execTrace (s : State) : Result := s.raise .traceTrap

/-- R91, R183: the instruction completes and the processor stops executing. -/
def execHalt (s : State) : Result := .next ((s.setHalted true).setPc (s.nextPc 1))

/-- R93. -/
def execMfsr (s : State) : Result := .next ((s.setAcc s.sr).setPc (s.nextPc 1))

/-- R94. -/
def execMtsr (s : State) : Result := .next ((s.setSr s.acc).setPc (s.nextPc 1))

/-- R95, R96: the shift amount, `acc[5:0]`. -/
def shiftAmount (acc : Word) : Nat := (acc.extractLsb' 0 6).toNat

/-- R95. -/
def execShl (s : State) : Result := .next ((s.setAcc (s.sr <<< shiftAmount s.acc)).setPc (s.nextPc 1))

/-- R96. -/
def execShr (s : State) : Result := .next ((s.setAcc (s.sr >>> shiftAmount s.acc)).setPc (s.nextPc 1))

/-- R97. -/
def execJumpa (s : State) : Result := .next (s.setPc s.acc)

/-- R98. -/
def execCalla (s : State) : Result := .next ((s.setLr (s.nextPc 1)).setPc s.acc)

/-- R99. -/
def execRet (s : State) : Result := .next (s.setPc s.lr)

/-- R100: the target is the link register before the store (`90_conflicts.md` C2). -/
def execRetl (s : State) : Result := .next ((s.setLr (s.nextPc 1)).setPc s.lr)

/-- R101. -/
def execMflr (s : State) : Result := .next ((s.setAcc s.lr).setPc (s.nextPc 1))

/-- R102. -/
def execMtlr (s : State) : Result := .next ((s.setLr s.acc).setPc (s.nextPc 1))

/-- R103: the value is the address of the next instruction. -/
def execPc (s : State) : Result := .next ((s.setAcc (s.nextPc 1)).setPc (s.nextPc 1))

/-- R104. -/
def execNop (s : State) : Result := .next (s.setPc (s.nextPc 1))

end Sys2Proof.Machine
end

