-- ==== Sys2Proof/Machine/Dispatch.lean ====
section
/-! DEFINITION. The dispatch: one arm per constructor of `Instr`. -/
namespace Sys2Proof.Machine

def exec (i : Instr) (s : State) : Host.Outcome State Fault Refusal :=
  match i with
  | .null => Sys2Proof.Machine.execNull s
  | .trace => Sys2Proof.Machine.execTrace s
  | .halt => Sys2Proof.Machine.execHalt s
  | .ext => Sys2Proof.Machine.execExt s
  | .mfsr => Sys2Proof.Machine.execMfsr s
  | .mtsr => Sys2Proof.Machine.execMtsr s
  | .shl => Sys2Proof.Machine.execShl s
  | .shr => Sys2Proof.Machine.execShr s
  | .jumpa => Sys2Proof.Machine.execJumpa s
  | .calla => Sys2Proof.Machine.execCalla s
  | .ret => Sys2Proof.Machine.execRet s
  | .retl => Sys2Proof.Machine.execRetl s
  | .mflr => Sys2Proof.Machine.execMflr s
  | .mtlr => Sys2Proof.Machine.execMtlr s
  | .pc => Sys2Proof.Machine.execPc s
  | .nop => Sys2Proof.Machine.execNop s
  | .test c => Sys2Proof.Machine.execTest c s
  | .mf x => Sys2Proof.Machine.execMf x s
  | .mt x => Sys2Proof.Machine.execMt x s
  | .and x => Sys2Proof.Machine.execAnd x s
  | .or x => Sys2Proof.Machine.execOr x s
  | .xor x => Sys2Proof.Machine.execXor x s
  | .add x => Sys2Proof.Machine.execAdd x s
  | .jump c imm => Sys2Proof.Machine.execJump c imm s
  | .call c imm => Sys2Proof.Machine.execCall c imm s
  | .ld x imm => Sys2Proof.Machine.execLd x imm s
  | .st x imm => Sys2Proof.Machine.execSt x imm s
  | .andi m imm => Sys2Proof.Machine.execAndi m imm s
  | .ori m imm => Sys2Proof.Machine.execOri m imm s
  | .xori m imm => Sys2Proof.Machine.execXori m imm s
  | .addi m imm => Sys2Proof.Machine.execAddi m imm s
  | .extDataFence flags => Sys2Proof.Machine.execExtDataFence flags s
  | .extInstructionFence => Sys2Proof.Machine.execExtInstructionFence s
  | .extMoveFromAur x => Sys2Proof.Machine.execExtMoveFromAur x s
  | .extMoveToAur x => Sys2Proof.Machine.execExtMoveToAur x s
  | .extAtomicAnd x => Sys2Proof.Machine.execExtAtomicAnd x s
  | .extAtomicOr x => Sys2Proof.Machine.execExtAtomicOr x s
  | .extAtomicXor x => Sys2Proof.Machine.execExtAtomicXor x s
  | .extAtomicAdd x => Sys2Proof.Machine.execExtAtomicAdd x s
  | .extLoadLink x => Sys2Proof.Machine.execExtLoadLink x s
  | .extStoreConditional x => Sys2Proof.Machine.execExtStoreConditional x s
  | .extSystemCall free => Sys2Proof.Machine.execExtSystemCall free s
  | .extHartId => Sys2Proof.Machine.execExtHartId s
  | .extMoveFromAsr x => Sys2Proof.Machine.execExtMoveFromAsr x s
  | .extMoveToAsr x => Sys2Proof.Machine.execExtMoveToAsr x s
  | .extTlbClearAll => Sys2Proof.Machine.execExtTlbClearAll s
  | .extTlbClear x => Sys2Proof.Machine.execExtTlbClear x s
  | .extTlbGet x => Sys2Proof.Machine.execExtTlbGet x s
  | .extTlbSet x => Sys2Proof.Machine.execExtTlbSet x s
  | .extCheckExtension n => Sys2Proof.Machine.execExtCheckExtension n s

end Sys2Proof.Machine
end

