-- ==== Sys2Proof/Machine/Fetch.lean ====
section
/-! DEFINITION. The fetch of an instruction (`20_memory.md` R41, `30_encoding.md` R64). -/
namespace Sys2Proof.Machine

/-- R41: `FetchByte(a)`, one byte with no rotation. -/
def State.fetchByte (s : State) (a : Word) : Except Stop Byte :=
  match s.locate .execute a with
  | .ok pa => .ok (s.memByte pa)
  | .error e => .error e

/-- R64: the immediate, fetched from `pc + 1` and `pc + 2`; the first byte that cannot be fetched stops it (R184). -/
def State.fetchImm (s : State) : Except Stop Imm :=
  match s.fetchByte (s.pc + 1) with
  | .error e => .error e
  | .ok b1 =>
    match s.fetchByte (s.pc + 2) with
    | .error e => .error e
    | .ok b2 => .ok (immOf b1 b2)

/-- R15, R64: the instruction at `pc`. Bytes beyond a short instruction are not fetched. -/
def State.fetchInstr (s : State) : Except Stop Instr :=
  match s.fetchByte s.pc with
  | .error e => .error e
  | .ok b0 =>
    if b0.msb then
      match s.fetchImm with
      | .error e => .error e
      | .ok imm => .ok (decodeFirst b0 imm)
    else .ok (decodeFirst b0 0)

/-- R191: the interrupt the outside has sent, if the profile has interrupts, and the state without it. BASE has none
(R190). -/
def State.received (s : State) : Option (BitVec 8 × State) :=
  match s.params.profile, s.irq with
  | .base, _ => none
  | .extended, [] => none
  | .extended, n :: rest => some (n, s.setIrq rest)

/-- Where the fetch of an address finds its byte; the address itself where it finds none. -/
def State.fetchPlace (s : State) (a : Word) : Nat :=
  match s.locate .execute a with
  | .ok pa => pa.toNat
  | .error _ => a.toNat

/-- Bytes stored where the fetch will find them, from an address up. -/
def State.placeBytes (s : State) (a : Word) : List Byte → State
  | [] => s
  | b :: rest => State.placeBytes (s.setMem (Memory.write s.mem (s.fetchPlace a) b)) (a + 1) rest

/-- The processor ready to fetch: not halted and with no interrupt to take first. -/
def State.ready (s : State) : State := (s.setHalted false).setIrq []

/-- An action row's word placed: the byte `03` at `pc` and the word in `sr` (R92, R130). -/
def State.placeAction (s : State) (w : Nat) : State :=
  (s.setSr (BitVec.ofNat 64 w)).placeBytes s.pc [0x03#8]

end Sys2Proof.Machine
end

