-- ==== Sys2Proof/Machine/Step.lean ====
section
/-! DEFINITION. One step (`10_state.md` R15, `60_exceptions.md` R203). -/
namespace Sys2Proof.Machine

/-- R9, R15: an interrupt that has arrived is taken between instructions (R191); a halted processor takes no step
(R183); else one instruction is fetched, decoded and executed. DESIGN CHOICE: an interrupt that arrives while a handler
runs is taken at once, as any other (R194 leaves nesting open; log entry 45). -/
def step (s : State) : Host.Outcome State Fault Refusal :=
  match s.received with
  | some (n, t) => t.enter n
  | none =>
    if s.halted then .fault (.halted s.pc)
    else
      match s.fetchInstr with
      | .error e => s.stop e
      | .ok i => exec i s

/-- The state with an instruction of the opcode table placed so that the very next step runs it: its bytes at `pc`,
or, for a row of space `ext`, the byte `03` at `pc` and the row's word in `sr` (log entries 4 and 36). -/
def State.withFetchWord (s : State) (nbits w : Nat) : State :=
  if isActionRow nbits then s.ready.placeAction w
  else s.ready.placeBytes s.pc (tableBytes nbits w)

end Sys2Proof.Machine
end

