-- ==== Sys2Proof/Safety.lean ====
section
/-! DEFINITION. What claims are stated in: the shape every reachable state has, the ends of a run
(`60_exceptions.md` R203), the equality of two memories byte by byte, and the calling convention, which binds software
and no instruction (`45_calling_convention.md`). -/
namespace Sys2Proof.Machine

/-! ## The shape of a state -/

/-- A set of the TLB: at most `TLB_WAYS` lines (R50), no two with one tag (D23). -/
abbrev tlbSetFormed (ways : Nat) (lines : List TlbLine) : Prop :=
  lines.length ≤ ways ∧ lines.Pairwise (fun l l' => l.tag ≠ l'.tag)

/-- R28: a reserved location is an aligned 8-byte block. -/
abbrev reservationAligned (r : Option Word) : Prop := r.map blockOf = r

/-- The memory is in canonical form, every set of the TLB is formed and a reservation is aligned. -/
abbrev State.Formed (s : State) : Prop :=
  Memory.wf s.mem ∧ (∀ k : Fin 16, tlbSetFormed s.params.tlbWays s.tlb[k]) ∧ reservationAligned s.reservation

/-! ## Ends of a run -/

/-- R203: an outcome the step of a BASE machine may have from a state: the next state, `Halted`, `Trapped` by `null`,
`trace` or `ext` at the instruction, or `Faulted` at the instruction. -/
def BaseOutcome (s : State) : Result → Prop
  | .next _ => True
  | .fault (.halted p) => p = s.pc ∧ s.halted = true
  | .fault (.trapped c p) => p = s.pc ∧ (c = .nullTrap ∨ c = .traceTrap ∨ c = .extInvalid s.sr)
  | .fault (.memUnmapped p _) => p = s.pc
  | .refused _ => False

/-- The step is not stopped: the run goes on, or it has come to its normal end (R218). -/
def SafeStep (s : State) : Prop := (∃ t, step s = .next t) ∨ step s = .fault (.halted s.pc)

/-! ## Bytes and words as the spec writes them -/

/-- R65: the byte of a short instruction, from its two hex digits. -/
def shortCode (op arg : Nat) : List Byte := [BitVec.ofNat 8 (16 * op + arg)]

/-- R67, R71: the bytes of a long instruction, `lo` before `hi`. -/
def longCode (op arg : Nat) (imm : Imm) : List Byte :=
  [BitVec.ofNat 8 (16 * op + arg), BitVec.ofNat 8 (imm.toNat % 256), BitVec.ofNat 8 (imm.toNat / 256)]

/-- R134: the action word of a two-byte number, from its first three hex digits and its last, the other bits zero. -/
def digitWord (high digit : Nat) : Word := BitVec.ofNat 64 ((16 * high + digit) * 2 ^ 48)

/-! ## Frames -/

/-- Every byte of memory reads in `t` as in `s`. -/
def SameMemory (s t : State) : Prop := ∀ a : Word, t.memByte a = s.memByte a

/-- Every byte outside the aligned block of `a` reads in `t` as in `s` (R36). -/
def SameMemoryOutside (a : Word) (s t : State) : Prop :=
  ∀ a' : Word, blockOf a' ≠ blockOf a → t.memByte a' = s.memByte a'

/-- What a memory operation may do to the reservation (R146, U11): keep it or lose it; with none held, nothing. -/
def ReservationKeptOrLost (s t : State) : Prop :=
  (t.reservation = s.reservation ∨ t.reservation = none) ∧ (s.reservation = none → t.freeCount = s.freeCount)

/-! ## Events -/

/-- No instruction of this kind stores: it is neither `st` nor an atomic action nor a store-conditional (R105, R119,
R141 to R144, R146). Whether `ext` stores is a matter of the action it performs. -/
def NotAStore (i : Instr) : Prop :=
  (∀ x imm, i ≠ .st x imm) ∧ (∀ x, i ≠ .extAtomicAnd x) ∧ (∀ x, i ≠ .extAtomicOr x) ∧ (∀ x, i ≠ .extAtomicXor x) ∧
    (∀ x, i ≠ .extAtomicAdd x) ∧ ∀ x, i ≠ .extStoreConditional x

/-- The atomic action of a register, with the high digits of its number (R141 to R144). -/
inductive IsAtomic (x : Reg) : Instr → BitVec 12 → Prop where
  | and : IsAtomic x (.extAtomicAnd x) 0x004#12
  | or : IsAtomic x (.extAtomicOr x) 0x005#12
  | xor : IsAtomic x (.extAtomicXor x) 0x006#12
  | add : IsAtomic x (.extAtomicAdd x) 0x007#12

/-- R118, R119, R141 to R146: the kind and the address of the first access to memory an instruction makes. An atomic
action reads before it writes; a store-conditional whose reservation does not hold makes none; `ext` makes that of the
action it performs. -/
inductive FirstAccess (s : State) : Instr → Access → Word → Prop where
  | load (x : Reg) (imm : Imm) : FirstAccess s (.ld x imm) .read (s.effAddr x imm)
  | store (x : Reg) (imm : Imm) : FirstAccess s (.st x imm) .write (s.effAddr x imm)
  | atomic (x : Reg) (i : Instr) (n : BitVec 12) (ha : IsAtomic x i n)
      (hi : s.implements (digitNumber n x) = true) : FirstAccess s i .read (s.readGpr x)
  | loadLink (x : Reg) (hi : s.implements (digitNumber 0x00a#12 x) = true) :
      FirstAccess s (.extLoadLink x) .read (s.readGpr x)
  | storeConditional (x : Reg) (hi : s.implements (digitNumber 0x00b#12 x) = true)
      (hr : s.reservation = some (blockOf (s.readGpr x))) : FirstAccess s (.extStoreConditional x) .write (s.readGpr x)
  | performed (i : Instr) (k : Access) (va : Word) (hw : decodeAction s.sr = .ok i) (h : FirstAccess s i k va) :
      FirstAccess s .ext k va

/-- An access of the kind at the address is not located, and every instruction whose first access it is has the
outcome (R182, R184). -/
def AccessEnds (s : State) (k : Access) (va : Word) (why : Stop) (outcome : Result) : Prop :=
  s.locate k va = .error why ∧ ∀ i, FirstAccess s i k va → exec i s = outcome

/-- R181: which instruction raises which event from a state. The event of `ext` is that of the action it performs. -/
inductive RaisesEvent (s : State) : Instr → TrapCause → Prop where
  /-- R89. -/
  | null : RaisesEvent s .null .nullTrap
  /-- R90. -/
  | trace : RaisesEvent s .trace .traceTrap
  /-- R147. -/
  | systemCall (free : BitVec 32) (hi : s.implements (.four 0x7fffffff#32) = true) :
      RaisesEvent s (.extSystemCall free) (.syscall s.sr)
  /-- R92, R136: `sr` names no assigned action. -/
  | unassigned (e : DecodeError) (hw : decodeAction s.sr = .error e) : RaisesEvent s .ext (.extInvalid s.sr)
  /-- R92, R136: the action is not implemented. -/
  | notImplemented (i : Instr) (n : ExtNumber) (hn : i.actionNumber = some n) (hi : s.implements n = false) :
      RaisesEvent s i (.extInvalid s.sr)
  /-- R133. -/
  | privileged (i : Instr) (n : ExtNumber) (hn : i.actionNumber = some n) (hi : s.implements n = true)
      (hl : n.supervisorLevel = true) (hs : s.supervisor = false) : RaisesEvent s i (.extPriv s.sr)
  /-- R56, R118. -/
  | load (x : Reg) (imm : Imm) (va : Word) (h : s.locate .read (s.effAddr x imm) = .error (.trap (.protection va))) :
      RaisesEvent s (.ld x imm) (.protection va)
  /-- R56, R119. -/
  | store (x : Reg) (imm : Imm) (va : Word) (h : s.locate .write (s.effAddr x imm) = .error (.trap (.protection va))) :
      RaisesEvent s (.st x imm) (.protection va)
  /-- R56, R141: the read of an atomic action. -/
  | atomicRead (x : Reg) (i : Instr) (n : BitVec 12) (va : Word) (ha : IsAtomic x i n)
      (hi : s.implements (digitNumber n x) = true)
      (h : s.locate .read (s.readGpr x) = .error (.trap (.protection va))) : RaisesEvent s i (.protection va)
  /-- R56, R141: the write of an atomic action whose read is permitted. -/
  | atomicWrite (x : Reg) (i : Instr) (n : BitVec 12) (va pa : Word) (ha : IsAtomic x i n)
      (hi : s.implements (digitNumber n x) = true) (hr : s.locate .read (s.readGpr x) = .ok pa)
      (h : s.locate .write (s.readGpr x) = .error (.trap (.protection va))) : RaisesEvent s i (.protection va)
  /-- R56, R145. -/
  | loadLink (x : Reg) (va : Word) (hi : s.implements (digitNumber 0x00a#12 x) = true)
      (h : s.locate .read (s.readGpr x) = .error (.trap (.protection va))) :
      RaisesEvent s (.extLoadLink x) (.protection va)
  /-- R56, R146: the store of a store-conditional whose reservation holds. -/
  | storeConditional (x : Reg) (va : Word) (hi : s.implements (digitNumber 0x00b#12 x) = true)
      (hr : s.reservation = some (blockOf (s.readGpr x)))
      (h : s.locate .write (s.readGpr x) = .error (.trap (.protection va))) :
      RaisesEvent s (.extStoreConditional x) (.protection va)
  /-- R92, R130. -/
  | performed (i : Instr) (c : TrapCause) (hw : decodeAction s.sr = .ok i) (h : RaisesEvent s i c) :
      RaisesEvent s .ext c

/-- What `pfar` holds when the entry of an event begins: a free value after a protection violation (R56, log entry
23), else what it held. -/
def pfarAfter (s : State) : TrapCause → Word
  | .protection _ => Config.pfarAfterViolation s.freeCount
  | .nullTrap | .traceTrap | .extInvalid _ | .extPriv _ | .syscall _ => s.pfar

/-- R191, R192: all that entry with a new `pc` and a new `asr0` may change. Every general register, `acc`, `sr`, `lr`,
the TLB and every byte of memory are as they were; the reservation is kept or lost. -/
def EnteredWith (s t : State) (newPc newSfr : Word) : Prop :=
  t = { s with pc := newPc, sfr := newSfr, halted := false, aur := t.aur, itr := t.itr, pfar := t.pfar,
               asrReserved := t.asrReserved, reservation := t.reservation, freeCount := t.freeCount } ∧
    SameMemory s t ∧ (t.reservation = s.reservation ∨ t.reservation = none)

/-- R191: the state after the entry of an event. With nothing to save (R192) no auxiliary register but `asr0` changes
beside `pfar`. -/
def EnteredFor (s t : State) (c : TrapCause) (newPc newSfr : Word) : Prop :=
  EnteredWith s t newPc newSfr ∧
    (s.params.intSave = [] →
      t.aur = s.aur ∧ t.itr = s.itr ∧ t.asrReserved = s.asrReserved ∧ t.pfar = pfarAfter s c)

/-! ## The calling convention -/

/-- R169: what a function preserves from call to return, `r8` to `r15` and `lr`. -/
def CalleePreserves (s t : State) : Prop :=
  t.lr = s.lr ∧ ∀ x : Reg, 8 ≤ x.val → t.readGpr x = s.readGpr x

/-- R179: the stack pointer `r14` and the global pointer `r15` are 8-byte aligned at a call. -/
def AlignedAtCall (s : State) : Prop :=
  blockOf (s.readGpr 14) = s.readGpr 14 ∧ blockOf (s.readGpr 15) = s.readGpr 15

/-- R170: a function has returned when it is at the address `lr` held at its entry. -/
def ReturnedTo (s t : State) : Prop := t.pc = s.lr

/-- Where a 64-bit slot of an argument or of a return value lies: in a register, or in memory at an offset from the
pointer in the first register (R172, R176). -/
inductive ArgSlot where
  | register (x : Reg)
  | memory (offset : Nat)
deriving DecidableEq, Repr

/-- R174: the 64-bit slots of an argument of so many bits. DESIGN CHOICE: an argument of no bits, which no rule
discusses, takes one slot like any other of less than 64 bits (log entry 44). -/
def slotsOf (bits : Nat) : Nat := max 1 ((bits + 63) / 64)

/-- R172, with the reading of `90_conflicts.md` C11: the padded arguments take at most four slots, and their number is
fixed. -/
def passedInRegisters (variadic : Bool) (sizes : List Nat) : Bool :=
  !variadic && (sizes.map slotsOf).sum ≤ 4

/-- Slot `k` counted from the first slot. -/
def argSlot (first : Reg) (inRegisters : Bool) (k : Nat) : ArgSlot :=
  if inRegisters then .register (first + Fin.ofNat 16 k) else .memory (8 * k)

/-- The slots of each argument in turn, from slot `k` on. -/
def argSlotsFrom (first : Reg) (inRegisters : Bool) : Nat → List Nat → List (List ArgSlot)
  | _, [] => []
  | k, bits :: rest =>
    (List.range (slotsOf bits)).map (fun j => argSlot first inRegisters (k + j))
      :: argSlotsFrom first inRegisters (k + slotsOf bits) rest

/-- R172 to R175: where the arguments of a function lie, by their sizes in bits. -/
def argumentSlots (variadic : Bool) (sizes : List Nat) : List (List ArgSlot) :=
  argSlotsFrom 0 (passedInRegisters variadic sizes) 0 sizes

/-- R176: return values, likewise with `r4` to `r7`. -/
def returnSlots (sizes : List Nat) : List (List ArgSlot) :=
  argSlotsFrom 4 (passedInRegisters false sizes) 0 sizes

end Sys2Proof.Machine
end

