-- ==== Sys2Proof/Certificates/Slice0/Obligations.lean ====
section
/-! DEFINITION. The statements for the provers. A next state written as the old one with some fields changed says that
every other register, special register, the TLB and every byte of memory are as they were. -/

open Sys2Proof Sys2Proof.Machine

/-! ## Encoding -/

/-- R64 to R71: every well-formed instruction of space `opcode`, with every operand, decodes from its encoding and
leaves the bytes after it. -/
def Obligations.DecodeOfEncodeIsTheInstruction : Prop :=
  ∀ (i : Instr) (rest : List Byte), i.wellFormed = true → i.actionNumber = none →
    decode (encode i ++ rest) = .ok (i, rest)

/-- R70: every three bytes begin with an instruction, and encoding it gives back exactly the bytes it took. -/
def Obligations.EncodeOfDecodeIsTheBytes : Prop :=
  ∀ b0 b1 b2 : Byte, ∃ i rest, decode [b0, b1, b2] = .ok (i, rest) ∧ encode i ++ rest = [b0, b1, b2]

/-- R63: the first byte alone decides the length. -/
def Obligations.FirstByteDecidesLength : Prop :=
  ∀ b0 : Byte,
    (b0.toNat ≤ 0x7f → ∀ rest, ∃ i, decode (b0 :: rest) = .ok (i, rest)) ∧
    (0x80 ≤ b0.toNat →
      (∀ b1 b2 rest, ∃ i, decode (b0 :: b1 :: b2 :: rest) = .ok (i, rest)) ∧
      ∀ rest : List Byte, rest.length < 2 → decode (b0 :: rest) = .error .immediateMissing)

/-- R131, R134, R136: every well-formed action, with every argument, is named by its action word, and is the byte `03`
in memory. Masks and matches are as R136 derives them. -/
def Obligations.ActionOfItsWordIsTheAction : Prop :=
  ∀ (i : Instr) (w : Word), i.wellFormed = true → encodeAction i = some w →
    decodeAction w = .ok i ∧ encode i = [0x03#8]

/-- R131, R133, R136, R158: a word names an action exactly when its number is an assigned one, and then one row of the
table alone selects it; the action is well formed and bears the word's number, which is supervisor-level exactly when
bit 63 of the word is set. -/
def Obligations.ActionBearsTheNumberOfItsWord : Prop :=
  ∀ w : Word,
    ((ExtNumber.ofWord w).assigned = true ↔ ∃ i, decodeAction w = .ok i) ∧
    actionRows.Pairwise (fun r r' => ¬(r.selects w = true ∧ r'.selects w = true)) ∧
    (∀ i, decodeAction w = .ok i → i.wellFormed = true ∧ i.actionNumber = some (ExtNumber.ofWord w)) ∧
    ((ExtNumber.ofWord w).supervisorLevel = true ↔ 2 ^ 63 ≤ w.toNat)

/-- R134: the bits of a word below its two-byte number do not matter, but for bits 47 to 40 of the data fence, its
flags (R137). That they are ignored is the spec's decision D13 (log entry 33). -/
def Obligations.UnnamedActionBitsAreIgnored : Prop :=
  ∀ w w' : Word, w.extractLsb' 48 16 = w'.extractLsb' 48 16 →
    (w.extractLsb' 48 16 = 0x0010#16 → w.extractLsb' 40 24 = w'.extractLsb' 40 24) →
    (∃ n, ExtNumber.ofWord w = .two n) →
      ∀ i, decodeAction w = .ok i ↔ decodeAction w' = .ok i

/-- Bytes and action words written out from the spec's own examples (`95_test_vectors.md` S1, V1, V10) decode to what
they stand for. -/
def Obligations.WrittenOutWordsDecode : Prop :=
  decode [0x2e#8] = .ok (.mf 14, []) ∧ decode [0xf3#8, 0xf0#8, 0xff#8] = .ok (.addi 0x3#4 0xfff0#16, []) ∧
    decode [0xbe#8, 0x08#8, 0x00#8] = .ok (.st 14 0x0008#16, []) ∧
    decode [0x7f#8, 0x80#8, 0x00#8, 0x00#8] = .ok (.add 15, [0x80#8, 0x00#8, 0x00#8]) ∧
    decodeAction 0x0075_0000_0000_0000#64 = .ok (.extAtomicAdd 5) ∧
    decodeAction 0xffff_ffff_1234_0000#64 = .ok (.extCheckExtension (.two 0x1234#16)) ∧
    decodeAction 0x7eff_0000_0000_0000#64 = .error (.invalidAction 0x7eff_0000_0000_0000#64)

/-! ## Operands and conditions -/

/-- R73: chunk `m[3:2]` of XIMM is the immediate, its neighbour in the half is all `m[0]`, the other half all `m[1]`. -/
def Obligations.XimmChunks : Prop :=
  ∀ (m : Mode) (imm : Imm) (j : Nat), j < 4 →
    (ximm m imm).extractLsb' (16 * j) 16 =
      if j = m.toNat / 4 then imm
      else if j / 2 = m.toNat / 4 / 2 then (if m.getLsbD 0 then 0xffff#16 else 0x0000#16)
      else (if m.getLsbD 1 then 0xffff#16 else 0x0000#16)

/-- R74: a condition holds when its bit for the set of the accumulator is set, the sets told by sign. -/
def Obligations.CondHoldsBySign : Prop :=
  ∀ (c : Cond) (acc : Word),
    (acc.toInt = 0 → condHolds c acc = c.getLsbD 0) ∧
    (0 < acc.toInt → condHolds c acc = c.getLsbD 1) ∧
    (acc.toInt = -2 ^ 63 → condHolds c acc = c.getLsbD 2) ∧
    (-2 ^ 63 < acc.toInt → acc.toInt < 0 → condHolds c acc = c.getLsbD 3)

/-- R72, R118: ADDR is the base register plus the immediate read as a signed number, modulo `2^64`. That it wraps is
the spec's decision D4 (log entry 30). -/
def Obligations.EffectiveAddressIsBasePlusSignedImmediate : Prop :=
  ∀ (s : State) (x : Reg) (imm : Imm), s.effAddr x imm = BitVec.ofInt 64 ((s.readGpr x).toInt + imm.toInt)

/-! ## Memory -/

/-- R37, R38: byte `i` of a rotated read is the byte of the block at offset `(k + i) mod 8`. The table of R37 is the
spec's own derivation. -/
def Obligations.RotatedReadBytes : Prop :=
  ∀ (m : List Host.Cell) (a : Word) (i : Nat), i < 8 →
    wordByte (Memory.readRotated m a) i = Memory.read m (a.toNat / 8 * 8 + (a.toNat % 8 + i) % 8)

/-- R39: a rotated write puts byte `i` of the value at offset `(k + i) mod 8` of the block, changes no other byte, and
a read in the same block returns the value rotated by the difference of the addresses. The last clause is the spec's
own derivation. -/
def Obligations.RotatedWriteThenRead : Prop :=
  ∀ (m : List Host.Cell) (a v : Word), Memory.wf m →
    (∀ i, i < 8 → Memory.read (Memory.writeRotated m a v) (a.toNat / 8 * 8 + (a.toNat % 8 + i) % 8) = wordByte v i) ∧
    (∀ b : Nat, b / 8 ≠ a.toNat / 8 → Memory.read (Memory.writeRotated m a v) b = Memory.read m b) ∧
    (∀ a' : Word, a'.toNat / 8 = a.toNat / 8 →
      Memory.readRotated (Memory.writeRotated m a v) a' = v.rotateRight (8 * ((a' - a).toNat % 8)))

/-! ## Moves, shifts and arithmetic -/

/-- R93, R101 to R104, with the encoding of each: the moves with `sr`, `lr` and `next_pc`, and the no-operation. -/
def Obligations.SpecialRegisterMoves : Prop :=
  (encode .mfsr = [0x04#8] ∧ encode .mflr = [0x0c#8] ∧ encode .mtlr = [0x0d#8] ∧ encode .pc = [0x0e#8] ∧
    encode .nop = [0x0f#8]) ∧ ∀ s : State,
    exec .mfsr s = .next { s with acc := s.sr, pc := s.pc + 1 } ∧
    exec .mflr s = .next { s with acc := s.lr, pc := s.pc + 1 } ∧
    exec .mtlr s = .next { s with lr := s.acc, pc := s.pc + 1 } ∧
    exec .pc s = .next { s with acc := s.pc + 1, pc := s.pc + 1 } ∧
    exec .nop s = .next { s with pc := s.pc + 1 }

/-- R94: `mtsr` copies the accumulator to `sr`, and no other instruction changes `sr`. -/
def Obligations.OnlyMtsrWritesSr : Prop :=
  encode .mtsr = [0x05#8] ∧ (∀ s : State, exec .mtsr s = .next { s with sr := s.acc, pc := s.pc + 1 }) ∧
    ∀ (i : Instr) (s t : State), i ≠ .mtsr → exec i s = .next t → t.sr = s.sr

/-- R108, R109: `mf` and `mt` move between the accumulator and a general register, and no instruction but `mt` changes
a general register. -/
def Obligations.GeneralRegisterMoves : Prop :=
  (∀ (x : Reg) (s : State), encode (.mf x) = shortCode 2 x ∧ encode (.mt x) = shortCode 3 x ∧
    exec (.mf x) s = .next { s with acc := s.readGpr x, pc := s.pc + 1 } ∧
    ∃ t, exec (.mt x) s = .next t ∧ t.readGpr x = s.acc ∧ (∀ y, y ≠ x → t.readGpr y = s.readGpr y) ∧
      t = { s with gpr := t.gpr, pc := s.pc + 1 }) ∧
    ∀ (i : Instr) (s t : State), (∀ x, i ≠ .mt x) → exec i s = .next t → ∀ y, t.readGpr y = s.readGpr y

/-- R95, R96: the shifts are logical, by the low six bits of the accumulator. -/
def Obligations.ShiftsAreLogical : Prop :=
  encode .shl = [0x06#8] ∧ encode .shr = [0x07#8] ∧ ∀ s : State,
    exec .shl s = .next { s with
      acc := BitVec.ofNat 64 (s.sr.toNat * 2 ^ (s.acc.toNat % 64)), pc := s.pc + 1 } ∧
    exec .shr s = .next { s with
      acc := BitVec.ofNat 64 (s.sr.toNat / 2 ^ (s.acc.toNat % 64)), pc := s.pc + 1 }

/-- R107: `test` writes -1 or 0 as the condition holds of the old accumulator or not; `10` always writes 0 and `1f`
always -1. -/
def Obligations.TestWritesTheTruthValue : Prop :=
  ∀ (c : Cond) (s : State), encode (.test c) = shortCode 1 c.toNat ∧
    (condHolds c s.acc = true → exec (.test c) s = .next { s with acc := 0xffff_ffff_ffff_ffff#64, pc := s.pc + 1 }) ∧
    (condHolds c s.acc = false → exec (.test c) s = .next { s with acc := 0#64, pc := s.pc + 1 }) ∧
    exec (.test 0x0#4) s = .next { s with acc := 0#64, pc := s.pc + 1 } ∧
    exec (.test 0xf#4) s = .next { s with acc := 0xffff_ffff_ffff_ffff#64, pc := s.pc + 1 }

/-- R110 to R113: the register arithmetic, bit by bit and modulo `2^64`; nothing but the accumulator and `pc`
changes. -/
def Obligations.RegisterArithmetic : Prop :=
  ∀ (x : Reg) (s : State), encode (.and x) = shortCode 4 x ∧ encode (.or x) = shortCode 5 x ∧
    encode (.xor x) = shortCode 6 x ∧ encode (.add x) = shortCode 7 x ∧ ∃ a o e d : Word,
    exec (.and x) s = .next { s with acc := a, pc := s.pc + 1 } ∧
    exec (.or x) s = .next { s with acc := o, pc := s.pc + 1 } ∧
    exec (.xor x) s = .next { s with acc := e, pc := s.pc + 1 } ∧
    exec (.add x) s = .next { s with acc := d, pc := s.pc + 1 } ∧
    (∀ j, a.getLsbD j = (s.acc.getLsbD j && (s.readGpr x).getLsbD j)) ∧
    (∀ j, o.getLsbD j = (s.acc.getLsbD j || (s.readGpr x).getLsbD j)) ∧
    (∀ j, e.getLsbD j = (s.acc.getLsbD j ^^ (s.readGpr x).getLsbD j)) ∧
    d.toNat = (s.acc.toNat + (s.readGpr x).toNat) % 2 ^ 64

/-- R124 to R127: the immediate arithmetic, with XIMM in the place of the register. -/
def Obligations.ImmediateArithmetic : Prop :=
  ∀ (m : Mode) (imm : Imm) (s : State), encode (.andi m imm) = longCode 12 m.toNat imm ∧
    encode (.ori m imm) = longCode 13 m.toNat imm ∧ encode (.xori m imm) = longCode 14 m.toNat imm ∧
    encode (.addi m imm) = longCode 15 m.toNat imm ∧ ∃ a o e d : Word,
    exec (.andi m imm) s = .next { s with acc := a, pc := s.pc + 3 } ∧
    exec (.ori m imm) s = .next { s with acc := o, pc := s.pc + 3 } ∧
    exec (.xori m imm) s = .next { s with acc := e, pc := s.pc + 3 } ∧
    exec (.addi m imm) s = .next { s with acc := d, pc := s.pc + 3 } ∧
    (∀ j, a.getLsbD j = (s.acc.getLsbD j && (ximm m imm).getLsbD j)) ∧
    (∀ j, o.getLsbD j = (s.acc.getLsbD j || (ximm m imm).getLsbD j)) ∧
    (∀ j, e.getLsbD j = (s.acc.getLsbD j ^^ (ximm m imm).getLsbD j)) ∧
    d.toNat = (s.acc.toNat + (ximm m imm).toNat) % 2 ^ 64

/-! ## Control transfer -/

/-- R97 to R100: the transfers through the accumulator and the link register; `retl` jumps to the old link register. -/
def Obligations.IndirectTransfers : Prop :=
  encode .jumpa = [0x08#8] ∧ encode .calla = [0x09#8] ∧ encode .ret = [0x0a#8] ∧
  encode .retl = [0x0b#8] ∧ ∀ s : State,
    exec .jumpa s = .next { s with pc := s.acc } ∧
    exec .calla s = .next { s with lr := s.pc + 1, pc := s.acc } ∧
    exec .ret s = .next { s with pc := s.lr } ∧
    exec .retl s = .next { s with lr := s.pc + 1, pc := s.lr }

/-- R116, R117: when the condition holds `jump` and `call` go to `pc + 3` plus the signed offset, `call` with `pc + 3` in
the link register; when it does not, both only go on to `pc + 3`. -/
def Obligations.RelativeTransfers : Prop :=
  ∀ (c : Cond) (imm : Imm) (s : State), encode (.jump c imm) = longCode 8 c.toNat imm ∧
    encode (.call c imm) = longCode 9 c.toNat imm ∧
    (condHolds c s.acc = true →
      exec (.jump c imm) s = .next { s with pc := BitVec.ofInt 64 (s.pc.toInt + 3 + imm.toInt) } ∧
      exec (.call c imm) s =
        .next { s with lr := s.pc + 3, pc := BitVec.ofInt 64 (s.pc.toInt + 3 + imm.toInt) }) ∧
    (condHolds c s.acc = false →
      exec (.jump c imm) s = .next { s with pc := s.pc + 3 } ∧
      exec (.call c imm) s = .next { s with pc := s.pc + 3 })

/-- R18, R120: the link register is written by `calla`, `retl` and a taken `call` with the address of the next
instruction, by `mtlr` with the accumulator, and by nothing else. -/
def Obligations.LinkRegisterWriters : Prop :=
  ∀ (i : Instr) (s t : State), exec i s = .next t →
    t.lr = s.lr ∨ (t.lr = s.acc ∧ i = .mtlr) ∨ (t.lr = s.pc + 1 ∧ (i = .calla ∨ i = .retl)) ∨
      (t.lr = s.pc + 3 ∧ ∃ c imm, i = .call c imm ∧ condHolds c s.acc = true)

/-- R16: the instructions that do not write the accumulator leave it, whether they complete or take an exception. -/
def Obligations.AccumulatorKept : Prop :=
  ∀ (i : Instr) (s t : State), exec i s = .next t →
    (i = .null ∨ i = .trace ∨ i = .halt ∨ i = .mtsr ∨ i = .jumpa ∨ i = .calla ∨ i = .ret ∨ i = .retl ∨ i = .mtlr ∨
      i = .nop ∨ (∃ x, i = .mt x) ∨ (∃ c imm, i = .jump c imm) ∨ (∃ c imm, i = .call c imm) ∨
      (∃ x imm, i = .st x imm)) →
    t.acc = s.acc

/-- R15, R120: an instruction that is no control transfer goes on at the next instruction, or takes an exception. That
the address wraps is the spec's decision D4 (log entry 30), the exception that of log entry 15. -/
def Obligations.SequentialInstructionsAdvance : Prop :=
  ∀ (i : Instr) (s t : State), exec i s = .next t →
    (∀ c imm, i ≠ .jump c imm) → (∀ c imm, i ≠ .call c imm) → i ≠ .jumpa → i ≠ .calla → i ≠ .ret → i ≠ .retl →
      t.pc = s.pc + BitVec.ofNat 64 (encode i).length ∨ ∃ c, s.raise c = .next t

/-! ## Load and store -/

/-- R118: a load whose address is located gives the accumulator the rotated bytes of the block, and changes nothing
else but `pc` and, at most, the reservation (R146). That the reservation may go here is log entry 12. -/
def Obligations.LoadReadsTheRotatedBlock : Prop :=
  ∀ (x : Reg) (imm : Imm) (s : State) (pa : Word), s.locate .read (s.effAddr x imm) = .ok pa →
    ∃ t, exec (.ld x imm) s = .next t ∧
      (∀ i, i < 8 →
        wordByte t.acc i = s.memByte (blockOf pa + BitVec.ofNat 64 ((rotCount pa + i) % 8))) ∧
      SameMemory s t ∧ ReservationKeptOrLost s t ∧
      t = { s with acc := t.acc, pc := s.pc + 3, reservation := t.reservation, freeCount := t.freeCount }

/-- R119: a store whose address is located writes the eight bytes of the block, the low byte at the address itself,
and changes no other byte and nothing else but `pc` and, at most, the reservation. That the reservation may go here is
log entry 12. -/
def Obligations.StoreWritesTheRotatedBlock : Prop :=
  ∀ (x : Reg) (imm : Imm) (s : State) (pa : Word), Memory.wf s.mem →
    s.locate .write (s.effAddr x imm) = .ok pa →
    ∃ t, exec (.st x imm) s = .next t ∧
      (∀ i, i < 8 →
        t.memByte (blockOf pa + BitVec.ofNat 64 ((rotCount pa + i) % 8)) = wordByte s.acc i) ∧
      SameMemoryOutside pa s t ∧ ReservationKeptOrLost s t ∧
      t = { s with mem := t.mem, pc := s.pc + 3, reservation := t.reservation, freeCount := t.freeCount }

/-- R46, R184, U20: without translation an access is located at its own address when its block is in `MEM_MAP` and
stops with `MemUnmapped` at that address when it is not; in EXTENDED one in the I/O region is refused. The instruction
whose first access it is, `ld`, `st`, an atomic action, a load-link, a store-conditional whose reservation holds, or
`ext` performing one of these, ends so. These stops are the spec's decision D6 and the model's choice (log entries 2, 25
and 38). -/
def Obligations.UntranslatedAccessNeedsABackedBlock : Prop :=
  ∀ (s : State) (va : Word),
    (s.backed va = true ↔
      ∃ r ∈ s.params.memMap, r.first ≤ va.toNat / 8 ∧ va.toNat / 8 < r.first + r.count) ∧
    ∀ k : Access, s.translated k s.privilege = false →
      ((s.params.profile = .extended → va.toNat < 0xffff_0000_0000_0000) →
        (s.backed va = true → s.locate k va = .ok va) ∧
        (s.backed va = false → AccessEnds s k va (.unmapped va) (.fault (.memUnmapped s.pc va)))) ∧
      (s.params.profile = .extended → 0xffff_0000_0000_0000 ≤ va.toNat →
        AccessEnds s k va (.ioRegion va) (.refused (.ioRegion s.pc va)))

/-- R52, R53, R55, R56: a translated access through an entry with bit 11 set and bits 7 and 3 clear goes to the page of
the entry at the same offset when bit 6, 5 or 4, at user level bit 2, 1 or 0, permits the read, write or execution, and
is a protection violation when it does not; the instruction whose first access it is (`ld`, `st`, an atomic action, a
load-link, a store-conditional whose reservation holds, or `ext` performing one of these) then raises it. Which accesses
are translated is the model's parameter (log entry 20); the address is the spec's own derivation. The model's choices:
no entry is refused (log entry 21), an entry of another form is refused (log entry 22), and `MEM_MAP` and the I/O region
are asked about the physical address while the stop names the virtual one (log entries 25 and 38), and a violation
carries the virtual address (log entry 46). -/
def Obligations.TranslatedAccessFollowsTheTlbEntry : Prop :=
  ∀ (s : State) (va : Word) (p : Privilege) (k : Access) (bit : Nat),
    p = (if s.supervisor = true then Privilege.supervisor else Privilege.user) →
    (p, k, bit) ∈ [(Privilege.supervisor, Access.read, 6), (.supervisor, .write, 5), (.supervisor, .execute, 4),
      (.user, .read, 2), (.user, .write, 1), (.user, .execute, 0)] →
    s.translated k p = true →
    (s.tlbFind va = none → AccessEnds s k va (.tlbMiss va) (.refused (.tlbMiss s.pc va))) ∧
    ∀ e pa : Word, s.tlbFind va = some e → pa.toNat = e.toNat / 4096 * 4096 + va.toNat % 4096 →
      (e.getLsbD 11 = false ∨ e.getLsbD 7 = true ∨ e.getLsbD 3 = true →
        AccessEnds s k va (.malformedEntry va) (.refused (.malformedTlbEntry s.pc va))) ∧
      (e.getLsbD 11 = true → e.getLsbD 7 = false → e.getLsbD 3 = false →
        (e.getLsbD bit = false → AccessEnds s k va (.trap (.protection va)) (s.raise (.protection va))) ∧
        (e.getLsbD bit = true →
          (pa.toNat < 0xffff_0000_0000_0000 → s.backed pa = true → s.locate k va = .ok pa) ∧
          (pa.toNat < 0xffff_0000_0000_0000 → s.backed pa = false →
            AccessEnds s k va (.unmapped va) (.fault (.memUnmapped s.pc va))) ∧
          (0xffff_0000_0000_0000 ≤ pa.toNat →
            AccessEnds s k va (.ioRegion va) (.refused (.ioRegion s.pc va)))))

/-- R92, R105, R119, R141, R146: no instruction but a store, an atomic action, a store-conditional, or `ext` performing
one of these, changes a byte of memory; `ext` with another action or with a word that names none keeps it. An
instruction that enters the table keeps memory because the model's entry saves into registers only (log entry 16). -/
def Obligations.MemoryWriters : Prop :=
  ∀ (i : Instr) (s t : State), exec i s = .next t → NotAStore i →
    (i = .ext → ∀ j, decodeAction s.sr = .ok j → NotAStore j) → SameMemory s t

/-! ## Traps, halting, interrupts -/

/-- R91, R183: `halt` completes, and the halted processor takes no step while no interrupt arrives. The form of the
end is the model's (log entry 18). -/
def Obligations.HaltCompletesAndStopsTheProcessor : Prop :=
  ∀ s : State,
    exec .halt s = .next { s with halted := true, pc := s.pc + 1 } ∧
    (s.halted = true → s.received = none → step s = .fault (.halted s.pc))

/-- R89, R90, R92, R182: in BASE `null`, `trace` and, whatever `sr` holds, `ext` end the run at their own address. The
end is the spec's decisions D2 and D11 (log entry 17). -/
def Obligations.BaseTrapsEndTheRun : Prop :=
  ∀ s : State, s.params.profile = .base →
    exec .null s = .fault (.trapped .nullTrap s.pc) ∧ exec .trace s = .fault (.trapped .traceTrap s.pc) ∧
      exec .ext s = .fault (.trapped (.extInvalid s.sr) s.pc)

/-- R189: entry `n` of the interrupt table is the two aligned words at the table's page plus `16 n`, read with no
rotation. That the read is untranslated is the model's parameter (log entry 20). -/
def Obligations.TableEntryIsTwoAlignedWords : Prop :=
  ∀ (s : State) (n : BitVec 8), s.params.translation.table = none →
    s.inIoRegion (BitVec.ofNat 64 (s.itr.toNat * 4096)) = false →
    s.backed (BitVec.ofNat 64 (s.itr.toNat * 4096 + 16 * n.toNat)) = true →
    s.backed (BitVec.ofNat 64 (s.itr.toNat * 4096 + 16 * n.toNat + 8)) = true →
    ∃ p f : Word, s.tableEntry n = .ok (p, f) ∧
      ∀ i, i < 8 →
        wordByte p i = s.memByte (BitVec.ofNat 64 (s.itr.toNat * 4096 + 16 * n.toNat + i)) ∧
        wordByte f i = s.memByte (BitVec.ofNat 64 (s.itr.toNat * 4096 + 16 * n.toNat + 8 + i))

/-- R191: in EXTENDED an interrupt that has arrived is taken before any instruction, halted or not, by the entry through
its table entry: whatever `INT_SAVE` names, the new `pc` and the new `asr0` come from the table entry and no general
register, `acc`, `sr`, `lr` or byte of memory changes; with nothing to save (R192) nothing else changes but, at most,
the reservation. When an interrupt is taken, and what is saved, are the model's (log entries 12, 16 and 19). -/
def Obligations.InterruptEntersThroughTheTable : Prop :=
  ∀ (s : State) (n : BitVec 8) (rest : List (BitVec 8)), s.params.profile = .extended → s.irq = n :: rest →
    step s = (s.setIrq rest).enter n ∧
    ∀ p f : Word, s.tableEntry n = .ok (p, f) →
      ∃ t, step s = .next t ∧ EnteredWith (s.setIrq rest) t p f ∧
        (s.params.intSave = [] → ReservationKeptOrLost s t ∧
          t = { s with irq := rest, pc := p, sfr := f, halted := false, reservation := t.reservation,
                       freeCount := t.freeCount })

/-- R56, R89, R90, R92, R133, R147, R186, R191: the model's reading of `TRAP_ENTRY` (log entry 15): where the event has
a table entry, `null`, `trace`, the system call, an invalid action, a privileged action at user level and an access or
a fetch that the TLB forbids enter through it, and only the registers entry writes change. What `pfar` then holds is
the model's free value (log entry 23), what is saved log entry 16, the address a violation carries log entry 46. -/
def Obligations.TrapsEnterThroughTheTable : Prop :=
  (∀ (s : State) (n : BitVec 8) (p f : Word) (i : Instr) (c : TrapCause),
    RaisesEvent s i c → s.trapNumber c = some n → s.tableEntry n = .ok (p, f) →
    ∃ t, exec i s = .next t ∧ EnteredFor s t c p f) ∧
  ∀ (s : State) (n : BitVec 8) (p f va : Word), s.received = none → s.halted = false →
    s.fetchInstr = .error (.trap (.protection va)) → s.trapNumber (.protection va) = some n →
    s.tableEntry n = .ok (p, f) →
    ∃ t, step s = .next t ∧ EnteredFor s t (.protection va) p f

/-- R192: the model's `INT_SAVE` (log entry 16), for any list: each register that the list names, but `asr0`, holds
after entry the value that the source of its last pair held before entry (`asr1` without its low 12 bits, R26) and is a
defined one; a register that the list does not name keeps its value; `pc` and `asr0` are those of the table; and no
general register, `acc`, `sr`, `lr` or byte of memory changes. -/
def Obligations.EntrySavesWhatIntSaveNames : Prop :=
  ∀ (s : State) (n : BitVec 8) (p f : Word), s.tableEntry n = .ok (p, f) →
    ∃ t, s.enter n = .next t ∧ EnteredWith s t p f ∧
      (∀ (first later : List (SaveSource × SaveTarget)) (src : SaveSource) (target : SaveTarget),
        s.params.intSave = first ++ (src, target) :: later → (∀ q ∈ later, q.2 ≠ target) → target ≠ .asr 0 →
        t.targetDefined target = true ∧
        t.targetValue target =
          if target = .asr 1 then BitVec.ofNat 64 ((s.saveValue src).toNat / 4096 * 4096) else s.saveValue src) ∧
      ∀ target : SaveTarget, (∀ q ∈ s.params.intSave, q.2 ≠ target) → target ≠ .asr 0 →
        t.targetValue target = s.targetValue target

/-! ## `ext` and its actions -/

/-- R92: `ext` performs the action `sr` names, and is an invalid action when `sr` names none. -/
def Obligations.ExtPerformsTheActionOfSr : Prop :=
  ∀ s : State,
    (∀ i, decodeAction s.sr = .ok i → exec .ext s = exec i s) ∧
    (∀ e, decodeAction s.sr = .error e → exec .ext s = s.raise (.extInvalid s.sr))

/-- R92, R133: an action that is not implemented is invalid; an implemented supervisor-level one without the
supervisor bit is privileged, checked in this order. The order is the spec's decision D16 (log entry 26). -/
def Obligations.ActionsAreCheckedFirst : Prop :=
  ∀ (i : Instr) (n : ExtNumber) (s : State), i.actionNumber = some n →
    (s.implements n = false → exec i s = s.raise (.extInvalid s.sr)) ∧
    (s.implements n = true → n.supervisorLevel = true → s.supervisor = false → exec i s = s.raise (.extPriv s.sr))

/-- R60, R92, R137, R138: where they are implemented the two fences do nothing but go on, and so does `ext` when the
number in `sr` is that of one of them. That they do nothing is the model's, for one thread (log entry 27); that the
other bits of `sr` may be anything is the spec's decision D13 (log entry 33). -/
def Obligations.FencesOnlyAdvance : Prop :=
  ∀ (s : State) (flags : BitVec 8),
    (s.implements (.two 0x0010#16) = true → exec (.extDataFence flags) s = .next { s with pc := s.pc + 1 }) ∧
    (s.implements (.two 0x0011#16) = true → exec .extInstructionFence s = .next { s with pc := s.pc + 1 }) ∧
    (s.implements (.two 0x0010#16) = true → s.sr.extractLsb' 48 16 = 0x0010#16 →
      exec .ext s = .next { s with pc := s.pc + 1 }) ∧
    (s.implements (.two 0x0011#16) = true → s.sr.extractLsb' 48 16 = 0x0011#16 →
      exec .ext s = .next { s with pc := s.pc + 1 })

/-- R139, R140, U6: the moves with the auxiliary user registers; a reserved one reads as the model's free value (log
entry 13), whatever that is. -/
def Obligations.AuxiliaryUserRegisterMoves : Prop :=
  ∀ (x : Fin 16) (s : State),
    (s.implements (digitNumber 0x002#12 x) = true → s.aurDefined x = true →
      exec (.extMoveFromAur x) s = .next { s with acc := s.aur[x], pc := s.pc + 1 }) ∧
    (s.implements (digitNumber 0x002#12 x) = true → s.aurDefined x = false →
      exec (.extMoveFromAur x) s =
        .next { s with acc := Config.reservedRead s.freeCount s.aur[x], pc := s.pc + 1,
                       freeCount := s.freeCount + 1 }) ∧
    (s.implements (digitNumber 0x003#12 x) = true →
      ∃ t, exec (.extMoveToAur x) s = .next t ∧ t.aur[x] = s.acc ∧
        (∀ y : Fin 16, y ≠ x → t.aur[y] = s.aur[y]) ∧ t = { s with aur := t.aur, pc := s.pc + 1 })

/-- R141 to R144: an atomic action leaves the old value of memory in the accumulator and the result in memory, at the
address in the register with rotation, and changes no other byte. That the accumulator keeps the old value is the
spec's decision D14 (log entry 29), the reservation log entry 12. -/
def Obligations.AtomicActionsFetchAndModify : Prop :=
  ∀ (x : Reg) (s : State) (pa : Word) (i : Instr) (n : BitVec 12) (op : Word → Word → Word),
    (i = .extAtomicAnd x ∧ n = 0x004#12 ∧ op = fun k old => k &&& old) ∨
      (i = .extAtomicOr x ∧ n = 0x005#12 ∧ op = fun k old => k ||| old) ∨
      (i = .extAtomicXor x ∧ n = 0x006#12 ∧ op = fun k old => k ^^^ old) ∨
      (i = .extAtomicAdd x ∧ n = 0x007#12 ∧ op = fun k old => BitVec.ofNat 64 (k.toNat + old.toNat)) →
    Memory.wf s.mem → s.implements (digitNumber n x) = true →
    s.locate .read (s.readGpr x) = .ok pa → s.locate .write (s.readGpr x) = .ok pa →
    ∃ t, exec i s = .next t ∧
      (∀ j, j < 8 → wordByte t.acc j = s.memByte (blockOf pa + BitVec.ofNat 64 ((rotCount pa + j) % 8))) ∧
      (∀ j, j < 8 →
        t.memByte (blockOf pa + BitVec.ofNat 64 ((rotCount pa + j) % 8)) = wordByte (op s.acc t.acc) j) ∧
      SameMemoryOutside pa s t ∧ ReservationKeptOrLost s t ∧
      t = { s with acc := t.acc, mem := t.mem, pc := s.pc + 1, reservation := t.reservation,
                   freeCount := t.freeCount }

/-- R145: load-link loads with rotation and reserves the aligned block. Under translation the block is the model's
choice (log entry 28). -/
def Obligations.LoadLinkReservesTheBlock : Prop :=
  ∀ (x : Reg) (s : State) (pa : Word), s.implements (digitNumber 0x00a#12 x) = true →
    s.locate .read (s.readGpr x) = .ok pa →
    ∃ t, exec (.extLoadLink x) s = .next t ∧
      (∀ i, i < 8 → wordByte t.acc i = s.memByte (blockOf pa + BitVec.ofNat 64 ((rotCount pa + i) % 8))) ∧
      SameMemory s t ∧
      t = { s with acc := t.acc, reservation := some (blockOf (s.readGpr x)), pc := s.pc + 1 }

/-- R146: store-conditional stores and sets the accumulator to 0 when the reservation on the block holds; else it
stores nothing and sets it to -1; the reservation is cleared either way. The clearing is the spec's decision D14 (log
entry 29), the block log entry 28. -/
def Obligations.StoreConditionalObeysTheReservation : Prop :=
  ∀ (x : Reg) (s : State), Memory.wf s.mem → s.implements (digitNumber 0x00b#12 x) = true →
    (∀ pa, s.reservation = some (blockOf (s.readGpr x)) → s.locate .write (s.readGpr x) = .ok pa →
      ∃ t, exec (.extStoreConditional x) s = .next t ∧
        (∀ i, i < 8 →
          t.memByte (blockOf pa + BitVec.ofNat 64 ((rotCount pa + i) % 8)) = wordByte s.acc i) ∧
        SameMemoryOutside pa s t ∧
        t = { s with acc := 0#64, mem := t.mem, reservation := none, pc := s.pc + 1 }) ∧
    (s.reservation ≠ some (blockOf (s.readGpr x)) →
      exec (.extStoreConditional x) s =
        .next { s with acc := 0xffff_ffff_ffff_ffff#64, reservation := none, pc := s.pc + 1 })

/-- R145, R146: a store-conditional right after a load-link of the same register succeeds where the address can be
written, and a second one without a new load-link fails. The clearing is the spec's decision D14, and that nothing is
lost between the two is the model's (log entries 12 and 29). -/
def Obligations.OneStoreConditionalPerLoadLink : Prop :=
  ∀ (x : Reg) (s t u : State), s.implements (digitNumber 0x00a#12 x) = true →
    s.implements (digitNumber 0x00b#12 x) = true → (∃ v, s.load (s.readGpr x) = .ok v) →
    exec (.extLoadLink x) s = .next t → (∃ pa, t.locate .write (t.readGpr x) = .ok pa) →
    exec (.extStoreConditional x) t = .next u →
    u.acc = 0#64 ∧
      exec (.extStoreConditional x) u = .next { u with acc := 0xffff_ffff_ffff_ffff#64, pc := u.pc + 1 }

/-- R148: with the supervisor bit set the action writes the id of the thread, whatever it is. -/
def Obligations.HartIdGoesToTheAccumulator : Prop :=
  encodeAction .extHartId = some 0x8010_0000_0000_0000#64 ∧
  ∀ s : State, s.implements (.two 0x8010#16) = true → s.supervisor = true →
    exec .extHartId s = .next { s with acc := Config.hartId, pc := s.pc + 1 }

/-- R149, U7: with the supervisor bit set a defined auxiliary supervisor register moves to the accumulator; a reserved
one reads as the model's free value (log entry 13), whatever that is. -/
def Obligations.MoveFromAuxiliarySupervisorRegister : Prop :=
  ∀ (x : Fin 16) (s : State), s.implements (digitNumber 0x802#12 x) = true → s.supervisor = true →
    (x = 0 → exec (.extMoveFromAsr x) s = .next { s with acc := s.sfr, pc := s.pc + 1 }) ∧
    (x = 1 → exec (.extMoveFromAsr x) s =
      .next { s with acc := BitVec.ofNat 64 (s.itr.toNat * 4096), pc := s.pc + 1 }) ∧
    (x = 2 → exec (.extMoveFromAsr x) s = .next { s with acc := s.pfar, pc := s.pc + 1 }) ∧
    (3 ≤ x.val → s.asrDefined x = false → exec (.extMoveFromAsr x) s =
      .next { s with acc := Config.reservedRead s.freeCount (s.asrValue x), pc := s.pc + 1,
                     freeCount := s.freeCount + 1 }) ∧
    (3 ≤ x.val → s.asrDefined x = true → exec (.extMoveFromAsr x) s =
      .next { s with acc := s.asrValue x, pc := s.pc + 1 })

/-- R26, R150: with the supervisor bit set the accumulator moves to the auxiliary supervisor register, of which `asr1`
keeps only bits 63 to 12; no other one changes. -/
def Obligations.MoveToAuxiliarySupervisorRegister : Prop :=
  ∀ (x : Fin 16) (s : State), s.implements (digitNumber 0x803#12 x) = true → s.supervisor = true →
    ∃ t, exec (.extMoveToAsr x) s = .next t ∧
      t.asrValue x = (if x = 1 then BitVec.ofNat 64 (s.acc.toNat / 4096 * 4096) else s.acc) ∧
      (∀ y : Fin 16, y ≠ x → t.asrValue y = s.asrValue y) ∧
      t = { s with sfr := t.sfr, itr := t.itr, pfar := t.pfar, asrReserved := t.asrReserved, pc := s.pc + 1 }

/-- R151, R152, R153: with the supervisor bit set, TLB get reads the entry of the address or 0 when there is none, TLB
clear all leaves no address mapped, and TLB clear unmaps the page of the address and no other page. -/
def Obligations.TlbGetAndClears : Prop :=
  encodeAction .extTlbClearAll = some 0x8040_0000_0000_0000#64 ∧
  (∀ x, encodeAction (.extTlbClear x) = some (digitWord 0x805 x)) ∧
  (∀ x, encodeAction (.extTlbGet x) = some (digitWord 0x806 x)) ∧
  ∀ (x : Reg) (s : State), s.supervisor = true →
    (s.implements (digitNumber 0x806#12 x) = true →
      exec (.extTlbGet x) s = .next { s with acc := (s.tlbFind (s.readGpr x)).getD 0#64, pc := s.pc + 1 }) ∧
    (s.implements (.two 0x8040#16) = true →
      ∃ t, exec .extTlbClearAll s = .next t ∧ (∀ va, t.tlbFind va = none) ∧
        t = { s with tlb := t.tlb, pc := s.pc + 1 }) ∧
    (s.implements (digitNumber 0x805#12 x) = true →
      ∃ t, exec (.extTlbClear x) s = .next t ∧
        (∀ va : Word, va.toNat / 4096 = (s.readGpr x).toNat / 4096 → t.tlbFind va = none) ∧
        (∀ va : Word, va.toNat / 4096 ≠ (s.readGpr x).toNat / 4096 → t.tlbFind va = s.tlbFind va) ∧
        t = { s with tlb := t.tlb, pc := s.pc + 1 })

/-- R154: with the supervisor bit set, TLB set maps the page of the address to the accumulator; a page of another set
keeps its entry, and so does every other page when the tag was present or a way was free. The free way and the
replacement of an equal tag are log entries 11 and 37. That a value with bit 11 clear or bit 7 or 3 set is stored like
any other, which R53 and R154 leave open, is the model's choice (log entry 22). -/
def Obligations.TlbSetMapsThePage : Prop :=
  ∀ (x : Reg) (s : State), s.implements (digitNumber 0x807#12 x) = true → s.supervisor = true →
    1 ≤ s.params.tlbWays →
    ∃ t, exec (.extTlbSet x) s = .next t ∧
      (∀ va : Word, va.toNat / 4096 = (s.readGpr x).toNat / 4096 → t.tlbFind va = some s.acc) ∧
      (∀ va : Word, tlbSetOf va ≠ tlbSetOf (s.readGpr x) → t.tlbFind va = s.tlbFind va) ∧
      ((s.tlbFind (s.readGpr x)).isSome = true ∨ (s.tlbLines (s.readGpr x)).length < s.params.tlbWays →
        ∀ va : Word, va.toNat / 4096 ≠ (s.readGpr x).toNat / 4096 → t.tlbFind va = s.tlbFind va) ∧
      t = { s with tlb := t.tlb, freeCount := t.freeCount, pc := s.pc + 1 }

/-- R155: with the supervisor bit set, check extension writes -1 for an implemented number and 0 for another. What
counts as implemented is the model's (log entry 34). -/
def Obligations.CheckExtensionTellsWhatIsImplemented : Prop :=
  ∀ (n : ExtNumber) (s : State), s.implements (.four 0xffffffff#32) = true → s.supervisor = true →
    (s.implements n = true →
      exec (.extCheckExtension n) s = .next { s with acc := 0xffff_ffff_ffff_ffff#64, pc := s.pc + 1 }) ∧
    (s.implements n = false → exec (.extCheckExtension n) s = .next { s with acc := 0#64, pc := s.pc + 1 })

/-! ## The machine as a whole -/

/-- R15, R64: with no interrupt to take and the processor not halted, the bytes of one instruction that the fetch
finds from `pc` up are a well-formed instruction, and the step is its execution. The byte-wise fetch is the spec's
decisions D5 and D8 (log entry 31). -/
def Obligations.StepRunsTheDecodedInstruction : Prop :=
  ∀ (s : State) (bytes : List Byte) (i : Instr), s.received = none → s.halted = false →
    decode bytes = .ok (i, []) →
    (∀ j b, bytes[j]? = some b → s.fetchByte (s.pc + BitVec.ofNat 64 j) = .ok b) →
    i.wellFormed = true ∧ step s = exec i s

/-- R64, R184: without translation, a byte of the instruction whose block is not backed ends the run and is the one
named; a short instruction needs only its first byte. The stop is the spec's decision D6 and the I/O region log entry
38. -/
def Obligations.FetchNamesTheMissingByte : Prop :=
  ∀ s : State, s.received = none → s.halted = false → s.translated .execute s.privilege = false →
    s.inIoRegion s.pc = false → s.inIoRegion (s.pc + 1) = false → s.inIoRegion (s.pc + 2) = false →
    (s.backed s.pc = false → step s = .fault (.memUnmapped s.pc s.pc)) ∧
    (s.backed s.pc = true → (s.memByte s.pc).toNat < 0x80 →
      step s = exec (decodeFirst (s.memByte s.pc) 0#16) s) ∧
    (s.backed s.pc = true → 0x80 ≤ (s.memByte s.pc).toNat → s.backed (s.pc + 1) = false →
      step s = .fault (.memUnmapped s.pc (s.pc + 1))) ∧
    (s.backed s.pc = true → 0x80 ≤ (s.memByte s.pc).toNat → s.backed (s.pc + 1) = true →
      s.backed (s.pc + 2) = false → step s = .fault (.memUnmapped s.pc (s.pc + 2)))

/-- R20, R28, R33, R50: the canonical form of memory, the form of the TLB and the alignment of the reservation are
kept by every step, from every state that has them. The form is the model's own; equal tags are D23 (log entry 37). -/
def Obligations.EveryStepKeepsTheFormOfTheState : Prop :=
  ∀ s t : State, s.Formed → step s = .next t → t.Formed

/-- The state after reset has the form every step keeps. The values are the model's (log entries 1 to 8). -/
def Obligations.ResetHasTheFormOfTheState : Prop := State.reset.Formed

/-- After reset the processor is not halted and holds no reservation, which is the spec's own decision D9 (R31 calls
the reservation unspecified with a safe reading; log entry 8), and `asr1` reads with its low 12 bits zero (R26). The
rest of the reset state is the model's choice. -/
def Obligations.ResetIsNotHaltedAndHoldsNoReservation : Prop :=
  State.reset.halted = false ∧ State.reset.reservation = none ∧ (State.reset.asrValue 1).extractLsb' 0 12 = 0#12

/-- R2: no step changes the implementation parameters. That the parameters are data of the state is the model's (log
entry 1). -/
def Obligations.NoStepChangesTheParameters : Prop := ∀ s t : State, step s = .next t → t.params = s.params

/-- R203: the outcomes of a BASE step are the next state, `Halted`, `Trapped` by `null`, `trace` or `ext`, and
`Faulted`, each at the instruction's own address; a BASE step is never refused. The forms of the outcomes are the
model's (log entries 17 and 18). -/
def Obligations.BaseStepOutcomes : Prop := ∀ s : State, s.params.profile = .base → BaseOutcome s (step s)

/-- R2, R22: a BASE step leaves all the state of the EXTENDED material as it is. -/
def Obligations.BaseStepLeavesExtendedState : Prop :=
  ∀ s t : State, s.params.profile = .base → s.reservation = none → step s = .next t →
    t.aur = s.aur ∧ t.sfr = s.sfr ∧ t.itr = s.itr ∧ t.pfar = s.pfar ∧ t.asrReserved = s.asrReserved ∧
      t.reservation = none ∧ t.tlb = s.tlb ∧ t.irq = s.irq ∧ t.freeCount = s.freeCount

/-- R197: at user level no instruction changes `asr0`, unless it takes an exception that enters the table. That an
exception may is log entry 15. -/
def Obligations.UserLevelCannotWriteTheSupervisorFlags : Prop :=
  ∀ (i : Instr) (s t : State), s.supervisor = false → exec i s = .next t →
    t.sfr = s.sfr ∨ ∃ c, s.raise c = .next t

/-- R182, R187: a step that ends the run in a trap names the address in `pc`, the event has no table entry, and the
processor was not halted. The end is the spec's decision D2 (log entries 15 and 17). -/
def Obligations.TrapsNameTheirInstruction : Prop :=
  ∀ (s : State) (c : TrapCause) (p : Word), step s = .fault (.trapped c p) →
    p = s.pc ∧ s.trapNumber c = none ∧ s.halted = false
end

