-- ==== Sys2Proof/Laws/Encoding.lean ====
section
/-! SUPPORT. The fields of the first byte and of the immediate read back from the encoder's bytes (R65 to R71). -/
namespace Sys2Proof

/-- The bits of the first byte: the argument below, the operation above. -/
theorem getLsbD_firstByte (op arg : BitVec 4) (i : Nat) :
    (firstByte op arg).getLsbD i = if i < 4 then arg.getLsbD i else op.getLsbD (i - 4) :=
  BitVec.getLsbD_append

/-- The bits of the immediate: the byte at the lower address is the low byte (R71). -/
theorem getLsbD_immOf (b1 b2 : Byte) (i : Nat) :
    (immOf b1 b2).getLsbD i = if i < 8 then b1.getLsbD i else b2.getLsbD (i - 8) :=
  BitVec.getLsbD_append

@[simp] theorem opOf_firstByte (op arg : BitVec 4) : opOf (firstByte op arg) = op.toFin := by
  unfold opOf
  congr 1
  ext i hi
  simp [getLsbD_firstByte, hi]

@[simp] theorem argOf_firstByte (op arg : BitVec 4) : argOf (firstByte op arg) = arg := by
  unfold argOf
  ext i hi
  simp [getLsbD_firstByte, hi]

@[simp] theorem regOf_regField (x : Reg) : regOf (regField x) = x := rfl

/-- R71: the two immediate bytes give the immediate back. -/
@[simp] theorem immOf_bytes (imm : Imm) : immOf (imm.extractLsb' 0 8) (imm.extractLsb' 8 8) = imm := by
  refine BitVec.eq_of_getLsbD_eq fun i hi => ?_
  rw [getLsbD_immOf]
  by_cases h : i < 8
  · simp [h]
  · simp [h, show i - 8 < 8 by omega, show 8 + (i - 8) = i by omega]

/-- R63: bit 7 of the first byte is the high bit of the operation. -/
theorem msb_firstByte (op arg : BitVec 4) : (firstByte op arg).msb = op.msb := by
  rw [BitVec.msb_eq_getLsbD_last, BitVec.msb_eq_getLsbD_last, getLsbD_firstByte]
  rfl

/-- R64, R68: a first byte decodes by the row of its operation, with its argument. -/
theorem decodeFirst_firstByte (op arg : BitVec 4) (imm : Imm) :
    decodeFirst (firstByte op arg) imm = opTable[op.toFin] arg imm := by
  unfold decodeFirst
  rw [argOf_firstByte]
  exact congrArg (fun k : Fin 16 => opTable[k] arg imm) (opOf_firstByte op arg)

end Sys2Proof
end

