-- ==== Sys2Proof/Laws/Memory.lean ====
section
/-! SUPPORT. The list of cells: what a write leaves readable, and that every operation keeps the canonical form. -/
namespace Sys2Proof.Machine

theorem Memory.read_cons (a : Nat) (v : Byte) (m : List Host.Cell) (b : Nat)
    (h : b = a → Memory.read m a = Config.launchByte) :
    Memory.read (Memory.cons a v m) b = if b = a then v else Memory.read m b := by
  unfold Memory.cons
  split
  · next hv => split
               · next hb => rw [hb, h hb, hv]
               · rfl
  · rfl

/-- An address below every listed one is unlisted. -/
theorem Memory.read_below (m : List Host.Cell) (a : Nat) (h : ∀ c ∈ m, a < c.1) :
    Memory.read m a = Config.launchByte := by
  induction m with
  | nil => rfl
  | cons c rest ih =>
    have hne : a ≠ c.1 := Nat.ne_of_lt (h c (by simp))
    simp only [Memory.read, hne, if_false]
    exact ih fun d hd => h d (by simp [hd])

/-- A write is read back at its address and nowhere else. -/
theorem Memory.read_write (m : List Host.Cell) (hm : m.Pairwise (fun c d => c.1 < d.1)) (a : Nat) (v : Byte) (b : Nat) :
    Memory.read (Memory.write m a v) b = if b = a then v else Memory.read m b := by
  induction m with
  | nil => exact Memory.read_cons a v [] b fun _ => rfl
  | cons c rest ih =>
    obtain ⟨c1, c2⟩ := c
    obtain ⟨hc, hr⟩ := List.pairwise_cons.mp hm
    simp only [Memory.write]
    split
    · next hlt =>
      refine Memory.read_cons a v _ b fun _ => Memory.read_below _ a fun d hd => ?_
      rcases List.mem_cons.mp hd with rfl | hd
      · exact hlt
      · exact Nat.lt_trans hlt (hc d hd)
    · split
      · next heq =>
        subst heq
        rw [Memory.read_cons a v rest b fun _ => Memory.read_below rest a hc]
        by_cases hb : b = a <;> simp [Memory.read, hb]
      · next hne =>
        simp only [Memory.read]
        by_cases hb : b = c1
        · have : b ≠ a := fun e => hne (e.symm.trans hb)
          subst hb
          simp [this]
        · simp [hb, ih hr]

theorem Memory.cons_wf (a : Nat) (v : Byte) (m : List Host.Cell) (hm : Memory.wf m) (ha : a < 2 ^ 64)
    (hlt : ∀ c ∈ m, a < c.1) : Memory.wf (Memory.cons a v m) := by
  unfold Memory.cons
  split
  · exact hm
  · next hv =>
    refine ⟨List.pairwise_cons.mpr ⟨hlt, hm.1⟩, fun c hc => ?_⟩
    rcases List.mem_cons.mp hc with rfl | hc
    · exact ⟨ha, hv⟩
    · exact hm.2 c hc

/-- Every cell after a write is an old one or lies at the written address. -/
theorem Memory.mem_write (m : List Host.Cell) (a : Nat) (v : Byte) (c : Host.Cell) (h : c ∈ Memory.write m a v) :
    c ∈ m ∨ c.1 = a := by
  have hcons : ∀ (l : List Host.Cell), c ∈ Memory.cons a v l → c ∈ l ∨ c.1 = a := by
    intro l hl
    unfold Memory.cons at hl
    split at hl
    · exact .inl hl
    · rcases List.mem_cons.mp hl with rfl | hl
      · exact .inr rfl
      · exact .inl hl
  induction m with
  | nil => exact hcons [] h
  | cons d rest ih =>
    obtain ⟨d1, d2⟩ := d
    simp only [Memory.write] at h
    split at h
    · exact hcons _ h
    · split at h
      · exact (hcons _ h).imp_left fun hr => by simp [hr]
      · rcases List.mem_cons.mp h with rfl | h
        · simp
        · exact (ih h).imp_left fun hr => by simp [hr]

/-- The write of a byte keeps the canonical form. -/
theorem Memory.write_wf (m : List Host.Cell) (hm : Memory.wf m) (a : Nat) (ha : a < 2 ^ 64) (v : Byte) :
    Memory.wf (Memory.write m a v) := by
  induction m with
  | nil => exact Memory.cons_wf a v [] hm ha (by simp)
  | cons c rest ih =>
    obtain ⟨c1, c2⟩ := c
    obtain ⟨hp, hv⟩ := hm
    obtain ⟨hc, hr⟩ := List.pairwise_cons.mp hp
    have hrest : Memory.wf rest := ⟨hr, fun d hd => hv d (by simp [hd])⟩
    simp only [Memory.write]
    split
    · next hlt =>
      refine Memory.cons_wf a v _ ⟨hp, hv⟩ ha fun d hd => ?_
      rcases List.mem_cons.mp hd with rfl | hd
      · exact hlt
      · exact Nat.lt_trans hlt (hc d hd)
    · next hnlt =>
      split
      · next heq => exact Memory.cons_wf a v rest hrest ha fun d hd => by rw [heq]; exact hc d hd
      · next hne =>
        have ih := ih hrest
        refine ⟨List.pairwise_cons.mpr ⟨fun d hd => ?_, ih.1⟩, fun d hd => ?_⟩
        · rcases Memory.mem_write rest a v d hd with hd | hd
          · exact hc d hd
          · simp only [hd]
            omega
        · rcases List.mem_cons.mp hd with rfl | hd
          · exact hv _ (by simp)
          · exact ih.2 d hd

/-- The write of a block keeps the canonical form. -/
theorem Memory.writeBlock_wf (m : List Host.Cell) (hm : Memory.wf m) (b w : Word) :
    Memory.wf (Memory.writeBlock m b w) := by
  unfold Memory.writeBlock
  generalize [0, 1, 2, 3, 4, 5, 6, 7] = is
  induction is generalizing m with
  | nil => exact hm
  | cons i rest ih => exact ih _ (Memory.write_wf m hm _ (BitVec.isLt _) _)

/-- The rotated write keeps the canonical form. -/
theorem Memory.writeRotated_wf (m : List Host.Cell) (hm : Memory.wf m) (a v : Word) :
    Memory.wf (Memory.writeRotated m a v) := Memory.writeBlock_wf m hm _ _

/-- What the write of a block leaves at an address: the byte of the word if the address is one of the block's eight,
else what was there. -/
theorem Memory.read_writeBlock (m : List Host.Cell) (hm : Memory.wf m) (b w : Word) (a : Nat) :
    Memory.read (Memory.writeBlock m b w) a =
      if a = (b + 7).toNat then wordByte w 7 else if a = (b + 6).toNat then wordByte w 6
      else if a = (b + 5).toNat then wordByte w 5 else if a = (b + 4).toNat then wordByte w 4
      else if a = (b + 3).toNat then wordByte w 3 else if a = (b + 2).toNat then wordByte w 2
      else if a = (b + 1).toNat then wordByte w 1 else if a = (b + 0).toNat then wordByte w 0
      else Memory.read m a := by
  have h0 := Memory.write_wf m hm (b + 0).toNat (BitVec.isLt _) (wordByte w 0)
  have h1 := Memory.write_wf _ h0 (b + 1).toNat (BitVec.isLt _) (wordByte w 1)
  have h2 := Memory.write_wf _ h1 (b + 2).toNat (BitVec.isLt _) (wordByte w 2)
  have h3 := Memory.write_wf _ h2 (b + 3).toNat (BitVec.isLt _) (wordByte w 3)
  have h4 := Memory.write_wf _ h3 (b + 4).toNat (BitVec.isLt _) (wordByte w 4)
  have h5 := Memory.write_wf _ h4 (b + 5).toNat (BitVec.isLt _) (wordByte w 5)
  have h6 := Memory.write_wf _ h5 (b + 6).toNat (BitVec.isLt _) (wordByte w 6)
  have e : Memory.writeBlock m b w = Memory.write (Memory.write (Memory.write (Memory.write (Memory.write
      (Memory.write (Memory.write (Memory.write m (b + 0).toNat (wordByte w 0)) (b + 1).toNat (wordByte w 1))
      (b + 2).toNat (wordByte w 2)) (b + 3).toNat (wordByte w 3)) (b + 4).toNat (wordByte w 4)) (b + 5).toNat
      (wordByte w 5)) (b + 6).toNat (wordByte w 6)) (b + 7).toNat (wordByte w 7) := rfl
  rw [e, Memory.read_write _ h6.1, Memory.read_write _ h5.1, Memory.read_write _ h4.1, Memory.read_write _ h3.1,
    Memory.read_write _ h2.1, Memory.read_write _ h1.1, Memory.read_write _ h0.1, Memory.read_write _ hm.1]

end Sys2Proof.Machine
end

