-- ==== Sys2Proof/Laws/State.lean ====
section
/-! SUPPORT. One lemma per field per update of the state, and the reads of a general register through the updates. -/
namespace Sys2Proof.Machine

@[simp] theorem State.setPc_params (s : State) (v : Word) : (s.setPc v).params = s.params := rfl
@[simp] theorem State.setPc_pc (s : State) (v : Word) : (s.setPc v).pc = v := rfl
@[simp] theorem State.setPc_acc (s : State) (v : Word) : (s.setPc v).acc = s.acc := rfl
@[simp] theorem State.setPc_sr (s : State) (v : Word) : (s.setPc v).sr = s.sr := rfl
@[simp] theorem State.setPc_lr (s : State) (v : Word) : (s.setPc v).lr = s.lr := rfl
@[simp] theorem State.setPc_gpr (s : State) (v : Word) : (s.setPc v).gpr = s.gpr := rfl
@[simp] theorem State.setPc_aur (s : State) (v : Word) : (s.setPc v).aur = s.aur := rfl
@[simp] theorem State.setPc_sfr (s : State) (v : Word) : (s.setPc v).sfr = s.sfr := rfl
@[simp] theorem State.setPc_itr (s : State) (v : Word) : (s.setPc v).itr = s.itr := rfl
@[simp] theorem State.setPc_pfar (s : State) (v : Word) : (s.setPc v).pfar = s.pfar := rfl
@[simp] theorem State.setPc_asrReserved (s : State) (v : Word) : (s.setPc v).asrReserved = s.asrReserved := rfl
@[simp] theorem State.setPc_halted (s : State) (v : Word) : (s.setPc v).halted = s.halted := rfl
@[simp] theorem State.setPc_reservation (s : State) (v : Word) : (s.setPc v).reservation = s.reservation := rfl
@[simp] theorem State.setPc_tlb (s : State) (v : Word) : (s.setPc v).tlb = s.tlb := rfl
@[simp] theorem State.setPc_mem (s : State) (v : Word) : (s.setPc v).mem = s.mem := rfl
@[simp] theorem State.setPc_irq (s : State) (v : Word) : (s.setPc v).irq = s.irq := rfl
@[simp] theorem State.setPc_freeCount (s : State) (v : Word) : (s.setPc v).freeCount = s.freeCount := rfl
@[simp] theorem State.setPc_readGpr (s : State) (v : Word) (y : Reg) : (s.setPc v).readGpr y = s.readGpr y := rfl
@[simp] theorem State.setPc_memByte (s : State) (v : Word) (a : Word) : (s.setPc v).memByte a = s.memByte a := rfl

@[simp] theorem State.setAcc_params (s : State) (v : Word) : (s.setAcc v).params = s.params := rfl
@[simp] theorem State.setAcc_pc (s : State) (v : Word) : (s.setAcc v).pc = s.pc := rfl
@[simp] theorem State.setAcc_acc (s : State) (v : Word) : (s.setAcc v).acc = v := rfl
@[simp] theorem State.setAcc_sr (s : State) (v : Word) : (s.setAcc v).sr = s.sr := rfl
@[simp] theorem State.setAcc_lr (s : State) (v : Word) : (s.setAcc v).lr = s.lr := rfl
@[simp] theorem State.setAcc_gpr (s : State) (v : Word) : (s.setAcc v).gpr = s.gpr := rfl
@[simp] theorem State.setAcc_aur (s : State) (v : Word) : (s.setAcc v).aur = s.aur := rfl
@[simp] theorem State.setAcc_sfr (s : State) (v : Word) : (s.setAcc v).sfr = s.sfr := rfl
@[simp] theorem State.setAcc_itr (s : State) (v : Word) : (s.setAcc v).itr = s.itr := rfl
@[simp] theorem State.setAcc_pfar (s : State) (v : Word) : (s.setAcc v).pfar = s.pfar := rfl
@[simp] theorem State.setAcc_asrReserved (s : State) (v : Word) : (s.setAcc v).asrReserved = s.asrReserved := rfl
@[simp] theorem State.setAcc_halted (s : State) (v : Word) : (s.setAcc v).halted = s.halted := rfl
@[simp] theorem State.setAcc_reservation (s : State) (v : Word) : (s.setAcc v).reservation = s.reservation := rfl
@[simp] theorem State.setAcc_tlb (s : State) (v : Word) : (s.setAcc v).tlb = s.tlb := rfl
@[simp] theorem State.setAcc_mem (s : State) (v : Word) : (s.setAcc v).mem = s.mem := rfl
@[simp] theorem State.setAcc_irq (s : State) (v : Word) : (s.setAcc v).irq = s.irq := rfl
@[simp] theorem State.setAcc_freeCount (s : State) (v : Word) : (s.setAcc v).freeCount = s.freeCount := rfl
@[simp] theorem State.setAcc_readGpr (s : State) (v : Word) (y : Reg) : (s.setAcc v).readGpr y = s.readGpr y := rfl
@[simp] theorem State.setAcc_nextPc (s : State) (v : Word) (len : Nat) : (s.setAcc v).nextPc len = s.nextPc len := rfl
@[simp] theorem State.setAcc_memByte (s : State) (v : Word) (a : Word) : (s.setAcc v).memByte a = s.memByte a := rfl

@[simp] theorem State.setSr_params (s : State) (v : Word) : (s.setSr v).params = s.params := rfl
@[simp] theorem State.setSr_pc (s : State) (v : Word) : (s.setSr v).pc = s.pc := rfl
@[simp] theorem State.setSr_acc (s : State) (v : Word) : (s.setSr v).acc = s.acc := rfl
@[simp] theorem State.setSr_sr (s : State) (v : Word) : (s.setSr v).sr = v := rfl
@[simp] theorem State.setSr_lr (s : State) (v : Word) : (s.setSr v).lr = s.lr := rfl
@[simp] theorem State.setSr_gpr (s : State) (v : Word) : (s.setSr v).gpr = s.gpr := rfl
@[simp] theorem State.setSr_aur (s : State) (v : Word) : (s.setSr v).aur = s.aur := rfl
@[simp] theorem State.setSr_sfr (s : State) (v : Word) : (s.setSr v).sfr = s.sfr := rfl
@[simp] theorem State.setSr_itr (s : State) (v : Word) : (s.setSr v).itr = s.itr := rfl
@[simp] theorem State.setSr_pfar (s : State) (v : Word) : (s.setSr v).pfar = s.pfar := rfl
@[simp] theorem State.setSr_asrReserved (s : State) (v : Word) : (s.setSr v).asrReserved = s.asrReserved := rfl
@[simp] theorem State.setSr_halted (s : State) (v : Word) : (s.setSr v).halted = s.halted := rfl
@[simp] theorem State.setSr_reservation (s : State) (v : Word) : (s.setSr v).reservation = s.reservation := rfl
@[simp] theorem State.setSr_tlb (s : State) (v : Word) : (s.setSr v).tlb = s.tlb := rfl
@[simp] theorem State.setSr_mem (s : State) (v : Word) : (s.setSr v).mem = s.mem := rfl
@[simp] theorem State.setSr_irq (s : State) (v : Word) : (s.setSr v).irq = s.irq := rfl
@[simp] theorem State.setSr_freeCount (s : State) (v : Word) : (s.setSr v).freeCount = s.freeCount := rfl
@[simp] theorem State.setSr_readGpr (s : State) (v : Word) (y : Reg) : (s.setSr v).readGpr y = s.readGpr y := rfl
@[simp] theorem State.setSr_nextPc (s : State) (v : Word) (len : Nat) : (s.setSr v).nextPc len = s.nextPc len := rfl
@[simp] theorem State.setSr_memByte (s : State) (v : Word) (a : Word) : (s.setSr v).memByte a = s.memByte a := rfl

@[simp] theorem State.setLr_params (s : State) (v : Word) : (s.setLr v).params = s.params := rfl
@[simp] theorem State.setLr_pc (s : State) (v : Word) : (s.setLr v).pc = s.pc := rfl
@[simp] theorem State.setLr_acc (s : State) (v : Word) : (s.setLr v).acc = s.acc := rfl
@[simp] theorem State.setLr_sr (s : State) (v : Word) : (s.setLr v).sr = s.sr := rfl
@[simp] theorem State.setLr_lr (s : State) (v : Word) : (s.setLr v).lr = v := rfl
@[simp] theorem State.setLr_gpr (s : State) (v : Word) : (s.setLr v).gpr = s.gpr := rfl
@[simp] theorem State.setLr_aur (s : State) (v : Word) : (s.setLr v).aur = s.aur := rfl
@[simp] theorem State.setLr_sfr (s : State) (v : Word) : (s.setLr v).sfr = s.sfr := rfl
@[simp] theorem State.setLr_itr (s : State) (v : Word) : (s.setLr v).itr = s.itr := rfl
@[simp] theorem State.setLr_pfar (s : State) (v : Word) : (s.setLr v).pfar = s.pfar := rfl
@[simp] theorem State.setLr_asrReserved (s : State) (v : Word) : (s.setLr v).asrReserved = s.asrReserved := rfl
@[simp] theorem State.setLr_halted (s : State) (v : Word) : (s.setLr v).halted = s.halted := rfl
@[simp] theorem State.setLr_reservation (s : State) (v : Word) : (s.setLr v).reservation = s.reservation := rfl
@[simp] theorem State.setLr_tlb (s : State) (v : Word) : (s.setLr v).tlb = s.tlb := rfl
@[simp] theorem State.setLr_mem (s : State) (v : Word) : (s.setLr v).mem = s.mem := rfl
@[simp] theorem State.setLr_irq (s : State) (v : Word) : (s.setLr v).irq = s.irq := rfl
@[simp] theorem State.setLr_freeCount (s : State) (v : Word) : (s.setLr v).freeCount = s.freeCount := rfl
@[simp] theorem State.setLr_readGpr (s : State) (v : Word) (y : Reg) : (s.setLr v).readGpr y = s.readGpr y := rfl
@[simp] theorem State.setLr_nextPc (s : State) (v : Word) (len : Nat) : (s.setLr v).nextPc len = s.nextPc len := rfl
@[simp] theorem State.setLr_memByte (s : State) (v : Word) (a : Word) : (s.setLr v).memByte a = s.memByte a := rfl

@[simp] theorem State.setGpr_params (s : State) (x : Reg) (v : Word) : (s.setGpr x v).params = s.params := rfl
@[simp] theorem State.setGpr_pc (s : State) (x : Reg) (v : Word) : (s.setGpr x v).pc = s.pc := rfl
@[simp] theorem State.setGpr_acc (s : State) (x : Reg) (v : Word) : (s.setGpr x v).acc = s.acc := rfl
@[simp] theorem State.setGpr_sr (s : State) (x : Reg) (v : Word) : (s.setGpr x v).sr = s.sr := rfl
@[simp] theorem State.setGpr_lr (s : State) (x : Reg) (v : Word) : (s.setGpr x v).lr = s.lr := rfl
@[simp] theorem State.setGpr_gpr (s : State) (x : Reg) (v : Word) : (s.setGpr x v).gpr = s.gpr.set x v := rfl
@[simp] theorem State.setGpr_aur (s : State) (x : Reg) (v : Word) : (s.setGpr x v).aur = s.aur := rfl
@[simp] theorem State.setGpr_sfr (s : State) (x : Reg) (v : Word) : (s.setGpr x v).sfr = s.sfr := rfl
@[simp] theorem State.setGpr_itr (s : State) (x : Reg) (v : Word) : (s.setGpr x v).itr = s.itr := rfl
@[simp] theorem State.setGpr_pfar (s : State) (x : Reg) (v : Word) : (s.setGpr x v).pfar = s.pfar := rfl
@[simp] theorem State.setGpr_asrReserved (s : State) (x : Reg) (v : Word) : (s.setGpr x v).asrReserved = s.asrReserved := rfl
@[simp] theorem State.setGpr_halted (s : State) (x : Reg) (v : Word) : (s.setGpr x v).halted = s.halted := rfl
@[simp] theorem State.setGpr_reservation (s : State) (x : Reg) (v : Word) : (s.setGpr x v).reservation = s.reservation := rfl
@[simp] theorem State.setGpr_tlb (s : State) (x : Reg) (v : Word) : (s.setGpr x v).tlb = s.tlb := rfl
@[simp] theorem State.setGpr_mem (s : State) (x : Reg) (v : Word) : (s.setGpr x v).mem = s.mem := rfl
@[simp] theorem State.setGpr_irq (s : State) (x : Reg) (v : Word) : (s.setGpr x v).irq = s.irq := rfl
@[simp] theorem State.setGpr_freeCount (s : State) (x : Reg) (v : Word) : (s.setGpr x v).freeCount = s.freeCount := rfl
@[simp] theorem State.setGpr_nextPc (s : State) (x : Reg) (v : Word) (len : Nat) : (s.setGpr x v).nextPc len = s.nextPc len := rfl
@[simp] theorem State.setGpr_memByte (s : State) (x : Reg) (v : Word) (a : Word) : (s.setGpr x v).memByte a = s.memByte a := rfl

@[simp] theorem State.setAur_params (s : State) (x : Fin 16) (v : Word) : (s.setAur x v).params = s.params := rfl
@[simp] theorem State.setAur_pc (s : State) (x : Fin 16) (v : Word) : (s.setAur x v).pc = s.pc := rfl
@[simp] theorem State.setAur_acc (s : State) (x : Fin 16) (v : Word) : (s.setAur x v).acc = s.acc := rfl
@[simp] theorem State.setAur_sr (s : State) (x : Fin 16) (v : Word) : (s.setAur x v).sr = s.sr := rfl
@[simp] theorem State.setAur_lr (s : State) (x : Fin 16) (v : Word) : (s.setAur x v).lr = s.lr := rfl
@[simp] theorem State.setAur_gpr (s : State) (x : Fin 16) (v : Word) : (s.setAur x v).gpr = s.gpr := rfl
@[simp] theorem State.setAur_aur (s : State) (x : Fin 16) (v : Word) : (s.setAur x v).aur = s.aur.set x v := rfl
@[simp] theorem State.setAur_sfr (s : State) (x : Fin 16) (v : Word) : (s.setAur x v).sfr = s.sfr := rfl
@[simp] theorem State.setAur_itr (s : State) (x : Fin 16) (v : Word) : (s.setAur x v).itr = s.itr := rfl
@[simp] theorem State.setAur_pfar (s : State) (x : Fin 16) (v : Word) : (s.setAur x v).pfar = s.pfar := rfl
@[simp] theorem State.setAur_asrReserved (s : State) (x : Fin 16) (v : Word) : (s.setAur x v).asrReserved = s.asrReserved := rfl
@[simp] theorem State.setAur_halted (s : State) (x : Fin 16) (v : Word) : (s.setAur x v).halted = s.halted := rfl
@[simp] theorem State.setAur_reservation (s : State) (x : Fin 16) (v : Word) : (s.setAur x v).reservation = s.reservation := rfl
@[simp] theorem State.setAur_tlb (s : State) (x : Fin 16) (v : Word) : (s.setAur x v).tlb = s.tlb := rfl
@[simp] theorem State.setAur_mem (s : State) (x : Fin 16) (v : Word) : (s.setAur x v).mem = s.mem := rfl
@[simp] theorem State.setAur_irq (s : State) (x : Fin 16) (v : Word) : (s.setAur x v).irq = s.irq := rfl
@[simp] theorem State.setAur_freeCount (s : State) (x : Fin 16) (v : Word) : (s.setAur x v).freeCount = s.freeCount := rfl
@[simp] theorem State.setAur_readGpr (s : State) (x : Fin 16) (v : Word) (y : Reg) : (s.setAur x v).readGpr y = s.readGpr y := rfl
@[simp] theorem State.setAur_nextPc (s : State) (x : Fin 16) (v : Word) (len : Nat) : (s.setAur x v).nextPc len = s.nextPc len := rfl
@[simp] theorem State.setAur_memByte (s : State) (x : Fin 16) (v : Word) (a : Word) : (s.setAur x v).memByte a = s.memByte a := rfl

@[simp] theorem State.setSfr_params (s : State) (v : Word) : (s.setSfr v).params = s.params := rfl
@[simp] theorem State.setSfr_pc (s : State) (v : Word) : (s.setSfr v).pc = s.pc := rfl
@[simp] theorem State.setSfr_acc (s : State) (v : Word) : (s.setSfr v).acc = s.acc := rfl
@[simp] theorem State.setSfr_sr (s : State) (v : Word) : (s.setSfr v).sr = s.sr := rfl
@[simp] theorem State.setSfr_lr (s : State) (v : Word) : (s.setSfr v).lr = s.lr := rfl
@[simp] theorem State.setSfr_gpr (s : State) (v : Word) : (s.setSfr v).gpr = s.gpr := rfl
@[simp] theorem State.setSfr_aur (s : State) (v : Word) : (s.setSfr v).aur = s.aur := rfl
@[simp] theorem State.setSfr_sfr (s : State) (v : Word) : (s.setSfr v).sfr = v := rfl
@[simp] theorem State.setSfr_itr (s : State) (v : Word) : (s.setSfr v).itr = s.itr := rfl
@[simp] theorem State.setSfr_pfar (s : State) (v : Word) : (s.setSfr v).pfar = s.pfar := rfl
@[simp] theorem State.setSfr_asrReserved (s : State) (v : Word) : (s.setSfr v).asrReserved = s.asrReserved := rfl
@[simp] theorem State.setSfr_halted (s : State) (v : Word) : (s.setSfr v).halted = s.halted := rfl
@[simp] theorem State.setSfr_reservation (s : State) (v : Word) : (s.setSfr v).reservation = s.reservation := rfl
@[simp] theorem State.setSfr_tlb (s : State) (v : Word) : (s.setSfr v).tlb = s.tlb := rfl
@[simp] theorem State.setSfr_mem (s : State) (v : Word) : (s.setSfr v).mem = s.mem := rfl
@[simp] theorem State.setSfr_irq (s : State) (v : Word) : (s.setSfr v).irq = s.irq := rfl
@[simp] theorem State.setSfr_freeCount (s : State) (v : Word) : (s.setSfr v).freeCount = s.freeCount := rfl
@[simp] theorem State.setSfr_readGpr (s : State) (v : Word) (y : Reg) : (s.setSfr v).readGpr y = s.readGpr y := rfl
@[simp] theorem State.setSfr_nextPc (s : State) (v : Word) (len : Nat) : (s.setSfr v).nextPc len = s.nextPc len := rfl
@[simp] theorem State.setSfr_memByte (s : State) (v : Word) (a : Word) : (s.setSfr v).memByte a = s.memByte a := rfl

@[simp] theorem State.setItr_params (s : State) (v : BitVec 52) : (s.setItr v).params = s.params := rfl
@[simp] theorem State.setItr_pc (s : State) (v : BitVec 52) : (s.setItr v).pc = s.pc := rfl
@[simp] theorem State.setItr_acc (s : State) (v : BitVec 52) : (s.setItr v).acc = s.acc := rfl
@[simp] theorem State.setItr_sr (s : State) (v : BitVec 52) : (s.setItr v).sr = s.sr := rfl
@[simp] theorem State.setItr_lr (s : State) (v : BitVec 52) : (s.setItr v).lr = s.lr := rfl
@[simp] theorem State.setItr_gpr (s : State) (v : BitVec 52) : (s.setItr v).gpr = s.gpr := rfl
@[simp] theorem State.setItr_aur (s : State) (v : BitVec 52) : (s.setItr v).aur = s.aur := rfl
@[simp] theorem State.setItr_sfr (s : State) (v : BitVec 52) : (s.setItr v).sfr = s.sfr := rfl
@[simp] theorem State.setItr_itr (s : State) (v : BitVec 52) : (s.setItr v).itr = v := rfl
@[simp] theorem State.setItr_pfar (s : State) (v : BitVec 52) : (s.setItr v).pfar = s.pfar := rfl
@[simp] theorem State.setItr_asrReserved (s : State) (v : BitVec 52) : (s.setItr v).asrReserved = s.asrReserved := rfl
@[simp] theorem State.setItr_halted (s : State) (v : BitVec 52) : (s.setItr v).halted = s.halted := rfl
@[simp] theorem State.setItr_reservation (s : State) (v : BitVec 52) : (s.setItr v).reservation = s.reservation := rfl
@[simp] theorem State.setItr_tlb (s : State) (v : BitVec 52) : (s.setItr v).tlb = s.tlb := rfl
@[simp] theorem State.setItr_mem (s : State) (v : BitVec 52) : (s.setItr v).mem = s.mem := rfl
@[simp] theorem State.setItr_irq (s : State) (v : BitVec 52) : (s.setItr v).irq = s.irq := rfl
@[simp] theorem State.setItr_freeCount (s : State) (v : BitVec 52) : (s.setItr v).freeCount = s.freeCount := rfl
@[simp] theorem State.setItr_readGpr (s : State) (v : BitVec 52) (y : Reg) : (s.setItr v).readGpr y = s.readGpr y := rfl
@[simp] theorem State.setItr_nextPc (s : State) (v : BitVec 52) (len : Nat) : (s.setItr v).nextPc len = s.nextPc len := rfl
@[simp] theorem State.setItr_memByte (s : State) (v : BitVec 52) (a : Word) : (s.setItr v).memByte a = s.memByte a := rfl

@[simp] theorem State.setPfar_params (s : State) (v : Word) : (s.setPfar v).params = s.params := rfl
@[simp] theorem State.setPfar_pc (s : State) (v : Word) : (s.setPfar v).pc = s.pc := rfl
@[simp] theorem State.setPfar_acc (s : State) (v : Word) : (s.setPfar v).acc = s.acc := rfl
@[simp] theorem State.setPfar_sr (s : State) (v : Word) : (s.setPfar v).sr = s.sr := rfl
@[simp] theorem State.setPfar_lr (s : State) (v : Word) : (s.setPfar v).lr = s.lr := rfl
@[simp] theorem State.setPfar_gpr (s : State) (v : Word) : (s.setPfar v).gpr = s.gpr := rfl
@[simp] theorem State.setPfar_aur (s : State) (v : Word) : (s.setPfar v).aur = s.aur := rfl
@[simp] theorem State.setPfar_sfr (s : State) (v : Word) : (s.setPfar v).sfr = s.sfr := rfl
@[simp] theorem State.setPfar_itr (s : State) (v : Word) : (s.setPfar v).itr = s.itr := rfl
@[simp] theorem State.setPfar_pfar (s : State) (v : Word) : (s.setPfar v).pfar = v := rfl
@[simp] theorem State.setPfar_asrReserved (s : State) (v : Word) : (s.setPfar v).asrReserved = s.asrReserved := rfl
@[simp] theorem State.setPfar_halted (s : State) (v : Word) : (s.setPfar v).halted = s.halted := rfl
@[simp] theorem State.setPfar_reservation (s : State) (v : Word) : (s.setPfar v).reservation = s.reservation := rfl
@[simp] theorem State.setPfar_tlb (s : State) (v : Word) : (s.setPfar v).tlb = s.tlb := rfl
@[simp] theorem State.setPfar_mem (s : State) (v : Word) : (s.setPfar v).mem = s.mem := rfl
@[simp] theorem State.setPfar_irq (s : State) (v : Word) : (s.setPfar v).irq = s.irq := rfl
@[simp] theorem State.setPfar_freeCount (s : State) (v : Word) : (s.setPfar v).freeCount = s.freeCount := rfl
@[simp] theorem State.setPfar_readGpr (s : State) (v : Word) (y : Reg) : (s.setPfar v).readGpr y = s.readGpr y := rfl
@[simp] theorem State.setPfar_nextPc (s : State) (v : Word) (len : Nat) : (s.setPfar v).nextPc len = s.nextPc len := rfl
@[simp] theorem State.setPfar_memByte (s : State) (v : Word) (a : Word) : (s.setPfar v).memByte a = s.memByte a := rfl

@[simp] theorem State.setAsrReserved_params (s : State) (k : Fin 13) (v : Word) : (s.setAsrReserved k v).params = s.params := rfl
@[simp] theorem State.setAsrReserved_pc (s : State) (k : Fin 13) (v : Word) : (s.setAsrReserved k v).pc = s.pc := rfl
@[simp] theorem State.setAsrReserved_acc (s : State) (k : Fin 13) (v : Word) : (s.setAsrReserved k v).acc = s.acc := rfl
@[simp] theorem State.setAsrReserved_sr (s : State) (k : Fin 13) (v : Word) : (s.setAsrReserved k v).sr = s.sr := rfl
@[simp] theorem State.setAsrReserved_lr (s : State) (k : Fin 13) (v : Word) : (s.setAsrReserved k v).lr = s.lr := rfl
@[simp] theorem State.setAsrReserved_gpr (s : State) (k : Fin 13) (v : Word) : (s.setAsrReserved k v).gpr = s.gpr := rfl
@[simp] theorem State.setAsrReserved_aur (s : State) (k : Fin 13) (v : Word) : (s.setAsrReserved k v).aur = s.aur := rfl
@[simp] theorem State.setAsrReserved_sfr (s : State) (k : Fin 13) (v : Word) : (s.setAsrReserved k v).sfr = s.sfr := rfl
@[simp] theorem State.setAsrReserved_itr (s : State) (k : Fin 13) (v : Word) : (s.setAsrReserved k v).itr = s.itr := rfl
@[simp] theorem State.setAsrReserved_pfar (s : State) (k : Fin 13) (v : Word) : (s.setAsrReserved k v).pfar = s.pfar := rfl
@[simp] theorem State.setAsrReserved_asrReserved (s : State) (k : Fin 13) (v : Word) : (s.setAsrReserved k v).asrReserved = s.asrReserved.set k v := rfl
@[simp] theorem State.setAsrReserved_halted (s : State) (k : Fin 13) (v : Word) : (s.setAsrReserved k v).halted = s.halted := rfl
@[simp] theorem State.setAsrReserved_reservation (s : State) (k : Fin 13) (v : Word) : (s.setAsrReserved k v).reservation = s.reservation := rfl
@[simp] theorem State.setAsrReserved_tlb (s : State) (k : Fin 13) (v : Word) : (s.setAsrReserved k v).tlb = s.tlb := rfl
@[simp] theorem State.setAsrReserved_mem (s : State) (k : Fin 13) (v : Word) : (s.setAsrReserved k v).mem = s.mem := rfl
@[simp] theorem State.setAsrReserved_irq (s : State) (k : Fin 13) (v : Word) : (s.setAsrReserved k v).irq = s.irq := rfl
@[simp] theorem State.setAsrReserved_freeCount (s : State) (k : Fin 13) (v : Word) : (s.setAsrReserved k v).freeCount = s.freeCount := rfl
@[simp] theorem State.setAsrReserved_readGpr (s : State) (k : Fin 13) (v : Word) (y : Reg) : (s.setAsrReserved k v).readGpr y = s.readGpr y := rfl
@[simp] theorem State.setAsrReserved_nextPc (s : State) (k : Fin 13) (v : Word) (len : Nat) : (s.setAsrReserved k v).nextPc len = s.nextPc len := rfl
@[simp] theorem State.setAsrReserved_memByte (s : State) (k : Fin 13) (v : Word) (a : Word) : (s.setAsrReserved k v).memByte a = s.memByte a := rfl

@[simp] theorem State.setHalted_params (s : State) (v : Bool) : (s.setHalted v).params = s.params := rfl
@[simp] theorem State.setHalted_pc (s : State) (v : Bool) : (s.setHalted v).pc = s.pc := rfl
@[simp] theorem State.setHalted_acc (s : State) (v : Bool) : (s.setHalted v).acc = s.acc := rfl
@[simp] theorem State.setHalted_sr (s : State) (v : Bool) : (s.setHalted v).sr = s.sr := rfl
@[simp] theorem State.setHalted_lr (s : State) (v : Bool) : (s.setHalted v).lr = s.lr := rfl
@[simp] theorem State.setHalted_gpr (s : State) (v : Bool) : (s.setHalted v).gpr = s.gpr := rfl
@[simp] theorem State.setHalted_aur (s : State) (v : Bool) : (s.setHalted v).aur = s.aur := rfl
@[simp] theorem State.setHalted_sfr (s : State) (v : Bool) : (s.setHalted v).sfr = s.sfr := rfl
@[simp] theorem State.setHalted_itr (s : State) (v : Bool) : (s.setHalted v).itr = s.itr := rfl
@[simp] theorem State.setHalted_pfar (s : State) (v : Bool) : (s.setHalted v).pfar = s.pfar := rfl
@[simp] theorem State.setHalted_asrReserved (s : State) (v : Bool) : (s.setHalted v).asrReserved = s.asrReserved := rfl
@[simp] theorem State.setHalted_halted (s : State) (v : Bool) : (s.setHalted v).halted = v := rfl
@[simp] theorem State.setHalted_reservation (s : State) (v : Bool) : (s.setHalted v).reservation = s.reservation := rfl
@[simp] theorem State.setHalted_tlb (s : State) (v : Bool) : (s.setHalted v).tlb = s.tlb := rfl
@[simp] theorem State.setHalted_mem (s : State) (v : Bool) : (s.setHalted v).mem = s.mem := rfl
@[simp] theorem State.setHalted_irq (s : State) (v : Bool) : (s.setHalted v).irq = s.irq := rfl
@[simp] theorem State.setHalted_freeCount (s : State) (v : Bool) : (s.setHalted v).freeCount = s.freeCount := rfl
@[simp] theorem State.setHalted_readGpr (s : State) (v : Bool) (y : Reg) : (s.setHalted v).readGpr y = s.readGpr y := rfl
@[simp] theorem State.setHalted_nextPc (s : State) (v : Bool) (len : Nat) : (s.setHalted v).nextPc len = s.nextPc len := rfl
@[simp] theorem State.setHalted_memByte (s : State) (v : Bool) (a : Word) : (s.setHalted v).memByte a = s.memByte a := rfl

@[simp] theorem State.setReservation_params (s : State) (v : Option Word) : (s.setReservation v).params = s.params := rfl
@[simp] theorem State.setReservation_pc (s : State) (v : Option Word) : (s.setReservation v).pc = s.pc := rfl
@[simp] theorem State.setReservation_acc (s : State) (v : Option Word) : (s.setReservation v).acc = s.acc := rfl
@[simp] theorem State.setReservation_sr (s : State) (v : Option Word) : (s.setReservation v).sr = s.sr := rfl
@[simp] theorem State.setReservation_lr (s : State) (v : Option Word) : (s.setReservation v).lr = s.lr := rfl
@[simp] theorem State.setReservation_gpr (s : State) (v : Option Word) : (s.setReservation v).gpr = s.gpr := rfl
@[simp] theorem State.setReservation_aur (s : State) (v : Option Word) : (s.setReservation v).aur = s.aur := rfl
@[simp] theorem State.setReservation_sfr (s : State) (v : Option Word) : (s.setReservation v).sfr = s.sfr := rfl
@[simp] theorem State.setReservation_itr (s : State) (v : Option Word) : (s.setReservation v).itr = s.itr := rfl
@[simp] theorem State.setReservation_pfar (s : State) (v : Option Word) : (s.setReservation v).pfar = s.pfar := rfl
@[simp] theorem State.setReservation_asrReserved (s : State) (v : Option Word) : (s.setReservation v).asrReserved = s.asrReserved := rfl
@[simp] theorem State.setReservation_halted (s : State) (v : Option Word) : (s.setReservation v).halted = s.halted := rfl
@[simp] theorem State.setReservation_reservation (s : State) (v : Option Word) : (s.setReservation v).reservation = v := rfl
@[simp] theorem State.setReservation_tlb (s : State) (v : Option Word) : (s.setReservation v).tlb = s.tlb := rfl
@[simp] theorem State.setReservation_mem (s : State) (v : Option Word) : (s.setReservation v).mem = s.mem := rfl
@[simp] theorem State.setReservation_irq (s : State) (v : Option Word) : (s.setReservation v).irq = s.irq := rfl
@[simp] theorem State.setReservation_freeCount (s : State) (v : Option Word) : (s.setReservation v).freeCount = s.freeCount := rfl
@[simp] theorem State.setReservation_readGpr (s : State) (v : Option Word) (y : Reg) : (s.setReservation v).readGpr y = s.readGpr y := rfl
@[simp] theorem State.setReservation_nextPc (s : State) (v : Option Word) (len : Nat) : (s.setReservation v).nextPc len = s.nextPc len := rfl
@[simp] theorem State.setReservation_memByte (s : State) (v : Option Word) (a : Word) : (s.setReservation v).memByte a = s.memByte a := rfl

@[simp] theorem State.setTlbSet_params (s : State) (k : Fin 16) (v : List TlbLine) : (s.setTlbSet k v).params = s.params := rfl
@[simp] theorem State.setTlbSet_pc (s : State) (k : Fin 16) (v : List TlbLine) : (s.setTlbSet k v).pc = s.pc := rfl
@[simp] theorem State.setTlbSet_acc (s : State) (k : Fin 16) (v : List TlbLine) : (s.setTlbSet k v).acc = s.acc := rfl
@[simp] theorem State.setTlbSet_sr (s : State) (k : Fin 16) (v : List TlbLine) : (s.setTlbSet k v).sr = s.sr := rfl
@[simp] theorem State.setTlbSet_lr (s : State) (k : Fin 16) (v : List TlbLine) : (s.setTlbSet k v).lr = s.lr := rfl
@[simp] theorem State.setTlbSet_gpr (s : State) (k : Fin 16) (v : List TlbLine) : (s.setTlbSet k v).gpr = s.gpr := rfl
@[simp] theorem State.setTlbSet_aur (s : State) (k : Fin 16) (v : List TlbLine) : (s.setTlbSet k v).aur = s.aur := rfl
@[simp] theorem State.setTlbSet_sfr (s : State) (k : Fin 16) (v : List TlbLine) : (s.setTlbSet k v).sfr = s.sfr := rfl
@[simp] theorem State.setTlbSet_itr (s : State) (k : Fin 16) (v : List TlbLine) : (s.setTlbSet k v).itr = s.itr := rfl
@[simp] theorem State.setTlbSet_pfar (s : State) (k : Fin 16) (v : List TlbLine) : (s.setTlbSet k v).pfar = s.pfar := rfl
@[simp] theorem State.setTlbSet_asrReserved (s : State) (k : Fin 16) (v : List TlbLine) : (s.setTlbSet k v).asrReserved = s.asrReserved := rfl
@[simp] theorem State.setTlbSet_halted (s : State) (k : Fin 16) (v : List TlbLine) : (s.setTlbSet k v).halted = s.halted := rfl
@[simp] theorem State.setTlbSet_reservation (s : State) (k : Fin 16) (v : List TlbLine) : (s.setTlbSet k v).reservation = s.reservation := rfl
@[simp] theorem State.setTlbSet_tlb (s : State) (k : Fin 16) (v : List TlbLine) : (s.setTlbSet k v).tlb = s.tlb.set k v := rfl
@[simp] theorem State.setTlbSet_mem (s : State) (k : Fin 16) (v : List TlbLine) : (s.setTlbSet k v).mem = s.mem := rfl
@[simp] theorem State.setTlbSet_irq (s : State) (k : Fin 16) (v : List TlbLine) : (s.setTlbSet k v).irq = s.irq := rfl
@[simp] theorem State.setTlbSet_freeCount (s : State) (k : Fin 16) (v : List TlbLine) : (s.setTlbSet k v).freeCount = s.freeCount := rfl
@[simp] theorem State.setTlbSet_readGpr (s : State) (k : Fin 16) (v : List TlbLine) (y : Reg) : (s.setTlbSet k v).readGpr y = s.readGpr y := rfl
@[simp] theorem State.setTlbSet_nextPc (s : State) (k : Fin 16) (v : List TlbLine) (len : Nat) : (s.setTlbSet k v).nextPc len = s.nextPc len := rfl
@[simp] theorem State.setTlbSet_memByte (s : State) (k : Fin 16) (v : List TlbLine) (a : Word) : (s.setTlbSet k v).memByte a = s.memByte a := rfl

@[simp] theorem State.setMem_params (s : State) (m : List Host.Cell) : (s.setMem m).params = s.params := rfl
@[simp] theorem State.setMem_pc (s : State) (m : List Host.Cell) : (s.setMem m).pc = s.pc := rfl
@[simp] theorem State.setMem_acc (s : State) (m : List Host.Cell) : (s.setMem m).acc = s.acc := rfl
@[simp] theorem State.setMem_sr (s : State) (m : List Host.Cell) : (s.setMem m).sr = s.sr := rfl
@[simp] theorem State.setMem_lr (s : State) (m : List Host.Cell) : (s.setMem m).lr = s.lr := rfl
@[simp] theorem State.setMem_gpr (s : State) (m : List Host.Cell) : (s.setMem m).gpr = s.gpr := rfl
@[simp] theorem State.setMem_aur (s : State) (m : List Host.Cell) : (s.setMem m).aur = s.aur := rfl
@[simp] theorem State.setMem_sfr (s : State) (m : List Host.Cell) : (s.setMem m).sfr = s.sfr := rfl
@[simp] theorem State.setMem_itr (s : State) (m : List Host.Cell) : (s.setMem m).itr = s.itr := rfl
@[simp] theorem State.setMem_pfar (s : State) (m : List Host.Cell) : (s.setMem m).pfar = s.pfar := rfl
@[simp] theorem State.setMem_asrReserved (s : State) (m : List Host.Cell) : (s.setMem m).asrReserved = s.asrReserved := rfl
@[simp] theorem State.setMem_halted (s : State) (m : List Host.Cell) : (s.setMem m).halted = s.halted := rfl
@[simp] theorem State.setMem_reservation (s : State) (m : List Host.Cell) : (s.setMem m).reservation = s.reservation := rfl
@[simp] theorem State.setMem_tlb (s : State) (m : List Host.Cell) : (s.setMem m).tlb = s.tlb := rfl
@[simp] theorem State.setMem_mem (s : State) (m : List Host.Cell) : (s.setMem m).mem = m := rfl
@[simp] theorem State.setMem_irq (s : State) (m : List Host.Cell) : (s.setMem m).irq = s.irq := rfl
@[simp] theorem State.setMem_freeCount (s : State) (m : List Host.Cell) : (s.setMem m).freeCount = s.freeCount := rfl
@[simp] theorem State.setMem_readGpr (s : State) (m : List Host.Cell) (y : Reg) : (s.setMem m).readGpr y = s.readGpr y := rfl
@[simp] theorem State.setMem_nextPc (s : State) (m : List Host.Cell) (len : Nat) : (s.setMem m).nextPc len = s.nextPc len := rfl

@[simp] theorem State.setIrq_params (s : State) (v : List (BitVec 8)) : (s.setIrq v).params = s.params := rfl
@[simp] theorem State.setIrq_pc (s : State) (v : List (BitVec 8)) : (s.setIrq v).pc = s.pc := rfl
@[simp] theorem State.setIrq_acc (s : State) (v : List (BitVec 8)) : (s.setIrq v).acc = s.acc := rfl
@[simp] theorem State.setIrq_sr (s : State) (v : List (BitVec 8)) : (s.setIrq v).sr = s.sr := rfl
@[simp] theorem State.setIrq_lr (s : State) (v : List (BitVec 8)) : (s.setIrq v).lr = s.lr := rfl
@[simp] theorem State.setIrq_gpr (s : State) (v : List (BitVec 8)) : (s.setIrq v).gpr = s.gpr := rfl
@[simp] theorem State.setIrq_aur (s : State) (v : List (BitVec 8)) : (s.setIrq v).aur = s.aur := rfl
@[simp] theorem State.setIrq_sfr (s : State) (v : List (BitVec 8)) : (s.setIrq v).sfr = s.sfr := rfl
@[simp] theorem State.setIrq_itr (s : State) (v : List (BitVec 8)) : (s.setIrq v).itr = s.itr := rfl
@[simp] theorem State.setIrq_pfar (s : State) (v : List (BitVec 8)) : (s.setIrq v).pfar = s.pfar := rfl
@[simp] theorem State.setIrq_asrReserved (s : State) (v : List (BitVec 8)) : (s.setIrq v).asrReserved = s.asrReserved := rfl
@[simp] theorem State.setIrq_halted (s : State) (v : List (BitVec 8)) : (s.setIrq v).halted = s.halted := rfl
@[simp] theorem State.setIrq_reservation (s : State) (v : List (BitVec 8)) : (s.setIrq v).reservation = s.reservation := rfl
@[simp] theorem State.setIrq_tlb (s : State) (v : List (BitVec 8)) : (s.setIrq v).tlb = s.tlb := rfl
@[simp] theorem State.setIrq_mem (s : State) (v : List (BitVec 8)) : (s.setIrq v).mem = s.mem := rfl
@[simp] theorem State.setIrq_irq (s : State) (v : List (BitVec 8)) : (s.setIrq v).irq = v := rfl
@[simp] theorem State.setIrq_freeCount (s : State) (v : List (BitVec 8)) : (s.setIrq v).freeCount = s.freeCount := rfl
@[simp] theorem State.setIrq_readGpr (s : State) (v : List (BitVec 8)) (y : Reg) : (s.setIrq v).readGpr y = s.readGpr y := rfl
@[simp] theorem State.setIrq_nextPc (s : State) (v : List (BitVec 8)) (len : Nat) : (s.setIrq v).nextPc len = s.nextPc len := rfl
@[simp] theorem State.setIrq_memByte (s : State) (v : List (BitVec 8)) (a : Word) : (s.setIrq v).memByte a = s.memByte a := rfl

@[simp] theorem State.drawn_params (s : State) : (s.drawn).params = s.params := rfl
@[simp] theorem State.drawn_pc (s : State) : (s.drawn).pc = s.pc := rfl
@[simp] theorem State.drawn_acc (s : State) : (s.drawn).acc = s.acc := rfl
@[simp] theorem State.drawn_sr (s : State) : (s.drawn).sr = s.sr := rfl
@[simp] theorem State.drawn_lr (s : State) : (s.drawn).lr = s.lr := rfl
@[simp] theorem State.drawn_gpr (s : State) : (s.drawn).gpr = s.gpr := rfl
@[simp] theorem State.drawn_aur (s : State) : (s.drawn).aur = s.aur := rfl
@[simp] theorem State.drawn_sfr (s : State) : (s.drawn).sfr = s.sfr := rfl
@[simp] theorem State.drawn_itr (s : State) : (s.drawn).itr = s.itr := rfl
@[simp] theorem State.drawn_pfar (s : State) : (s.drawn).pfar = s.pfar := rfl
@[simp] theorem State.drawn_asrReserved (s : State) : (s.drawn).asrReserved = s.asrReserved := rfl
@[simp] theorem State.drawn_halted (s : State) : (s.drawn).halted = s.halted := rfl
@[simp] theorem State.drawn_reservation (s : State) : (s.drawn).reservation = s.reservation := rfl
@[simp] theorem State.drawn_tlb (s : State) : (s.drawn).tlb = s.tlb := rfl
@[simp] theorem State.drawn_mem (s : State) : (s.drawn).mem = s.mem := rfl
@[simp] theorem State.drawn_irq (s : State) : (s.drawn).irq = s.irq := rfl
@[simp] theorem State.drawn_freeCount (s : State) : (s.drawn).freeCount = s.freeCount + 1 := rfl
@[simp] theorem State.drawn_readGpr (s : State) (y : Reg) : (s.drawn).readGpr y = s.readGpr y := rfl
@[simp] theorem State.drawn_nextPc (s : State) (len : Nat) : (s.drawn).nextPc len = s.nextPc len := rfl
@[simp] theorem State.drawn_memByte (s : State) (a : Word) : (s.drawn).memByte a = s.memByte a := rfl

@[simp] theorem State.tlbClearAll_params (s : State) : (s.tlbClearAll).params = s.params := rfl
@[simp] theorem State.tlbClearAll_pc (s : State) : (s.tlbClearAll).pc = s.pc := rfl
@[simp] theorem State.tlbClearAll_acc (s : State) : (s.tlbClearAll).acc = s.acc := rfl
@[simp] theorem State.tlbClearAll_sr (s : State) : (s.tlbClearAll).sr = s.sr := rfl
@[simp] theorem State.tlbClearAll_lr (s : State) : (s.tlbClearAll).lr = s.lr := rfl
@[simp] theorem State.tlbClearAll_gpr (s : State) : (s.tlbClearAll).gpr = s.gpr := rfl
@[simp] theorem State.tlbClearAll_aur (s : State) : (s.tlbClearAll).aur = s.aur := rfl
@[simp] theorem State.tlbClearAll_sfr (s : State) : (s.tlbClearAll).sfr = s.sfr := rfl
@[simp] theorem State.tlbClearAll_itr (s : State) : (s.tlbClearAll).itr = s.itr := rfl
@[simp] theorem State.tlbClearAll_pfar (s : State) : (s.tlbClearAll).pfar = s.pfar := rfl
@[simp] theorem State.tlbClearAll_asrReserved (s : State) : (s.tlbClearAll).asrReserved = s.asrReserved := rfl
@[simp] theorem State.tlbClearAll_halted (s : State) : (s.tlbClearAll).halted = s.halted := rfl
@[simp] theorem State.tlbClearAll_reservation (s : State) : (s.tlbClearAll).reservation = s.reservation := rfl
@[simp] theorem State.tlbClearAll_tlb (s : State) : (s.tlbClearAll).tlb = Vector.replicate 16 [] := rfl
@[simp] theorem State.tlbClearAll_mem (s : State) : (s.tlbClearAll).mem = s.mem := rfl
@[simp] theorem State.tlbClearAll_irq (s : State) : (s.tlbClearAll).irq = s.irq := rfl
@[simp] theorem State.tlbClearAll_freeCount (s : State) : (s.tlbClearAll).freeCount = s.freeCount := rfl
@[simp] theorem State.tlbClearAll_readGpr (s : State) (y : Reg) : (s.tlbClearAll).readGpr y = s.readGpr y := rfl
@[simp] theorem State.tlbClearAll_nextPc (s : State) (len : Nat) : (s.tlbClearAll).nextPc len = s.nextPc len := rfl
@[simp] theorem State.tlbClearAll_memByte (s : State) (a : Word) : (s.tlbClearAll).memByte a = s.memByte a := rfl

/-- R19: a general register reads back what was written to it. -/
@[simp] theorem State.readGpr_setGpr_same (s : State) (x : Reg) (v : Word) : (s.setGpr x v).readGpr x = v := by
  simp [State.readGpr]

/-- R19: writing one general register leaves the others. -/
theorem State.readGpr_setGpr_other (s : State) (x y : Reg) (v : Word) (h : y ≠ x) :
    (s.setGpr x v).readGpr y = s.readGpr y := by
  simp only [State.readGpr, State.setGpr_gpr, Fin.getElem_fin]
  exact Vector.getElem_set_ne _ _ (fun e => h (Fin.ext e.symm))

end Sys2Proof.Machine
end

