-- ==== Sys2Proof/Laws/Ops.lean ====
section
/-! SUPPORT. One lemma per shared operation that says what it can do. -/
namespace Sys2Proof.Machine

/-! ## Privilege -/

/-- R133, R208: with every bit of `asr0` set the level is supervisor, whatever the place of the bit. -/
theorem State.supervisor_of_ones (s : State) (h : s.sfr = BitVec.allOnes 64) : s.supervisor = true := by
  rw [State.supervisor, h, BitVec.getLsbD_allOnes]
  exact decide_eq_true Config.supervisorBit.isLt

/-- R133: with every bit of `asr0` clear the level is user, whatever the place of the bit. -/
theorem State.supervisor_of_zero (s : State) (h : s.sfr = 0#64) : s.supervisor = false := by
  simp [State.supervisor, h]

/-! ## Taking an exception -/

/-- All that an exception can do (R182, R186): it ends the run, or it enters the table at the entry of its event. -/
theorem State.raise_cases (s : State) (c : TrapCause) :
    (s.trapNumber c = none ∧ s.raise c = .fault (.trapped c s.pc)) ∨
      ∃ n, s.trapNumber c = some n ∧ s.raise c = (s.recordTrap c).enter n := by
  unfold State.raise
  cases h : s.trapNumber c with
  | none => exact .inl ⟨rfl, rfl⟩
  | some n => exact .inr ⟨n, rfl, rfl⟩

/-- R182: no event has a table entry in BASE. -/
theorem State.trapNumber_base (s : State) (h : s.params.profile = .base) (c : TrapCause) : s.trapNumber c = none := by
  simp [State.trapNumber, h]

/-- R182: an exception in BASE ends the run. -/
theorem State.raise_base (s : State) (h : s.params.profile = .base) (c : TrapCause) :
    s.raise c = .fault (.trapped c s.pc) := by
  simp [State.raise, s.trapNumber_base h]

/-- R191: an entry that gives a next state read both words of its table entry. -/
theorem State.enter_next (s t : State) (n : BitVec 8) (h : s.enter n = .next t) :
    ∃ newPc newSfr, s.tableEntry n = .ok (newPc, newSfr) ∧ t = s.entered newPc newSfr := by
  unfold State.enter at h
  split at h
  · next p f hp => exact ⟨p, f, hp, (Host.Outcome.next.inj h).symm⟩
  · next e _ => cases e <;> simp [State.entryStop] at h

/-- An operation that gives no value leads to a next state only by an exception. -/
theorem State.stop_next (s t : State) (e : Stop) (h : s.stop e = .next t) : ∃ c, e = .trap c ∧ s.raise c = .next t := by
  cases e with
  | trap c => exact ⟨c, rfl, h⟩
  | unmapped a => simp [State.stop] at h
  | tlbMiss a => simp [State.stop] at h
  | malformedEntry a => simp [State.stop] at h
  | ioRegion a => simp [State.stop] at h

/-- R192: what an update that is no save keeps, the saves keep. -/
theorem State.saveContext_keeps {α : Type} (f : State → α) (hf : ∀ s t v, f (State.saveInto s t v) = f s) (s : State) :
    f s.saveContext = f s := by
  unfold State.saveContext
  generalize s.params.intSave = l
  suffices ∀ t : State, f (l.foldl (fun t p => t.saveInto p.2 (s.saveValue p.1)) t) = f t from this s
  induction l with
  | nil => exact fun t => rfl
  | cons p rest ih => exact fun t => (ih _).trans (hf t _ _)

/-- What no write of an auxiliary supervisor register changes. -/
theorem State.setAsr_keeps {α : Type} (f : State → α) (h0 : ∀ s v, f (State.setSfr s v) = f s)
    (h1 : ∀ s v, f (State.setItr s v) = f s) (h2 : ∀ s v, f (State.setPfar s v) = f s)
    (h3 : ∀ s k v, f (State.setAsrReserved s k v) = f s) (s : State) (x : Fin 16) (v : Word) :
    f (s.setAsr x v) = f s := by
  unfold State.setAsr
  split <;> simp [h0, h1, h2, h3]

/-- What no save can change: every field but the auxiliary registers. -/
theorem State.saveInto_keeps {α : Type} (f : State → α) (ha : ∀ s x v, f (State.setAur s x v) = f s)
    (h0 : ∀ s v, f (State.setSfr s v) = f s) (h1 : ∀ s v, f (State.setItr s v) = f s)
    (h2 : ∀ s v, f (State.setPfar s v) = f s) (h3 : ∀ s k v, f (State.setAsrReserved s k v) = f s) (s : State)
    (t : SaveTarget) (v : Word) : f (s.saveInto t v) = f s := by
  cases t with
  | aur x => exact ha s x v
  | asr x => exact s.setAsr_keeps f h0 h1 h2 h3 x v

@[simp] theorem State.targetValue_aur (s : State) (x : Fin 16) : s.targetValue (.aur x) = s.aur[x] := rfl

@[simp] theorem State.targetValue_asr (s : State) (x : Fin 16) : s.targetValue (.asr x) = s.asrValue x := rfl

/-- R26, R150: an auxiliary supervisor register reads as it was written, `asr1` without its low 12 bits. -/
theorem State.asrValue_setAsr_same (s : State) (x : Fin 16) (v : Word) :
    (s.setAsr x v).asrValue x = if x = 1 then v.extractLsb' 12 52 ++ 0#12 else v := by
  match x with
  | ⟨0, _⟩ => rfl
  | ⟨1, _⟩ => rfl
  | ⟨2, _⟩ => rfl
  | ⟨k + 3, h⟩ =>
    have hne : (⟨k + 3, h⟩ : Fin 16) ≠ 1 := fun e => absurd (congrArg Fin.val e) (by simp)
    rw [if_neg hne]
    exact Vector.getElem_set_self (by omega)

/-- R150: the write of one auxiliary supervisor register leaves the others. -/
theorem State.asrValue_setAsr_ne (s : State) (x y : Fin 16) (v : Word) (h : y ≠ x) :
    (s.setAsr x v).asrValue y = s.asrValue y := by
  match x, y with
  | ⟨0, _⟩, ⟨0, _⟩ | ⟨1, _⟩, ⟨1, _⟩ | ⟨2, _⟩, ⟨2, _⟩ => exact absurd rfl h
  | ⟨0, _⟩, ⟨1, _⟩ | ⟨0, _⟩, ⟨2, _⟩ | ⟨0, _⟩, ⟨_ + 3, _⟩ => rfl
  | ⟨1, _⟩, ⟨0, _⟩ | ⟨1, _⟩, ⟨2, _⟩ | ⟨1, _⟩, ⟨_ + 3, _⟩ => rfl
  | ⟨2, _⟩, ⟨0, _⟩ | ⟨2, _⟩, ⟨1, _⟩ | ⟨2, _⟩, ⟨_ + 3, _⟩ => rfl
  | ⟨_ + 3, _⟩, ⟨0, _⟩ | ⟨_ + 3, _⟩, ⟨1, _⟩ | ⟨_ + 3, _⟩, ⟨2, _⟩ => rfl
  | ⟨k + 3, hk⟩, ⟨j + 3, hj⟩ =>
    have hne : k ≠ j := fun e => h (by subst e; rfl)
    exact Vector.getElem_set_ne (by omega) (by omega) hne

/-- R192: a save is held by its target, `asr1` without its low 12 bits. -/
theorem State.targetValue_saveInto_same (s : State) (target : SaveTarget) (v : Word) :
    (s.saveInto target v).targetValue target = if target = .asr 1 then v.extractLsb' 12 52 ++ 0#12 else v := by
  cases target with
  | aur x => exact Vector.getElem_set_self x.isLt
  | asr x =>
    simp only [SaveTarget.asr.injEq]
    exact s.asrValue_setAsr_same x v

/-- R192: a save leaves every register but its target. -/
theorem State.targetValue_saveInto_ne (s : State) (target other : SaveTarget) (v : Word) (h : other ≠ target) :
    (s.saveInto target v).targetValue other = s.targetValue other := by
  match target, other with
  | .aur x, .aur y =>
    exact Vector.getElem_set_ne x.isLt y.isLt fun e => h (congrArg SaveTarget.aur (Fin.ext e.symm))
  | .aur _, .asr _ => rfl
  | .asr x, .asr y => exact s.asrValue_setAsr_ne x y v fun e => h (congrArg SaveTarget.asr e)
  | .asr x, .aur y =>
    exact congrArg (fun a : Vector Word 16 => a[y])
      (s.setAsr_keeps State.aur (fun _ _ => rfl) (fun _ _ => rfl) (fun _ _ => rfl) (fun _ _ _ => rfl) x v)

/-! ## The reservation -/

/-- R146, U11: an occasion on which the reservation may be lost keeps it or loses it, and does nothing else. -/
theorem State.mayLoseReservation_cases (s : State) :
    (s.reservation = none ∧ s.mayLoseReservation = s) ∨
      ∃ b, s.reservation = some b ∧
        s.mayLoseReservation = (s.setReservation (if Config.reservationLost s.freeCount then none else some b)).drawn := by
  unfold State.mayLoseReservation
  cases h : s.reservation with
  | none => exact .inl ⟨rfl, rfl⟩
  | some b => exact .inr ⟨b, rfl, rfl⟩

/-- What neither a change of the reservation nor the drawing of a free value changes. -/
theorem State.mayLoseReservation_keeps {α : Type} (f : State → α) (hr : ∀ s v, f (State.setReservation s v) = f s)
    (hd : ∀ s, f (State.drawn s) = f s) (s : State) : f s.mayLoseReservation = f s := by
  rcases s.mayLoseReservation_cases with ⟨_, h⟩ | ⟨b, _, h⟩ <;> rw [h]
  rw [hd, hr]

@[simp] theorem State.mayLoseReservation_params (s : State) : s.mayLoseReservation.params = s.params :=
  s.mayLoseReservation_keeps State.params (fun _ _ => rfl) (fun _ => rfl)

@[simp] theorem State.mayLoseReservation_pc (s : State) : s.mayLoseReservation.pc = s.pc :=
  s.mayLoseReservation_keeps State.pc (fun _ _ => rfl) (fun _ => rfl)

@[simp] theorem State.mayLoseReservation_acc (s : State) : s.mayLoseReservation.acc = s.acc :=
  s.mayLoseReservation_keeps State.acc (fun _ _ => rfl) (fun _ => rfl)

@[simp] theorem State.mayLoseReservation_sr (s : State) : s.mayLoseReservation.sr = s.sr :=
  s.mayLoseReservation_keeps State.sr (fun _ _ => rfl) (fun _ => rfl)

@[simp] theorem State.mayLoseReservation_lr (s : State) : s.mayLoseReservation.lr = s.lr :=
  s.mayLoseReservation_keeps State.lr (fun _ _ => rfl) (fun _ => rfl)

@[simp] theorem State.mayLoseReservation_gpr (s : State) : s.mayLoseReservation.gpr = s.gpr :=
  s.mayLoseReservation_keeps State.gpr (fun _ _ => rfl) (fun _ => rfl)

@[simp] theorem State.mayLoseReservation_aur (s : State) : s.mayLoseReservation.aur = s.aur :=
  s.mayLoseReservation_keeps State.aur (fun _ _ => rfl) (fun _ => rfl)

@[simp] theorem State.mayLoseReservation_sfr (s : State) : s.mayLoseReservation.sfr = s.sfr :=
  s.mayLoseReservation_keeps State.sfr (fun _ _ => rfl) (fun _ => rfl)

@[simp] theorem State.mayLoseReservation_itr (s : State) : s.mayLoseReservation.itr = s.itr :=
  s.mayLoseReservation_keeps State.itr (fun _ _ => rfl) (fun _ => rfl)

@[simp] theorem State.mayLoseReservation_pfar (s : State) : s.mayLoseReservation.pfar = s.pfar :=
  s.mayLoseReservation_keeps State.pfar (fun _ _ => rfl) (fun _ => rfl)

@[simp] theorem State.mayLoseReservation_asrReserved (s : State) :
    s.mayLoseReservation.asrReserved = s.asrReserved :=
  s.mayLoseReservation_keeps State.asrReserved (fun _ _ => rfl) (fun _ => rfl)

@[simp] theorem State.mayLoseReservation_halted (s : State) : s.mayLoseReservation.halted = s.halted :=
  s.mayLoseReservation_keeps State.halted (fun _ _ => rfl) (fun _ => rfl)

@[simp] theorem State.mayLoseReservation_tlb (s : State) : s.mayLoseReservation.tlb = s.tlb :=
  s.mayLoseReservation_keeps State.tlb (fun _ _ => rfl) (fun _ => rfl)

@[simp] theorem State.mayLoseReservation_mem (s : State) : s.mayLoseReservation.mem = s.mem :=
  s.mayLoseReservation_keeps State.mem (fun _ _ => rfl) (fun _ => rfl)

@[simp] theorem State.mayLoseReservation_irq (s : State) : s.mayLoseReservation.irq = s.irq :=
  s.mayLoseReservation_keeps State.irq (fun _ _ => rfl) (fun _ => rfl)

/-! ## The data access -/

/-- R46, R47: an access that gives an address gives a backed one outside the I/O region. -/
theorem State.mapped_ok (s : State) (va pa pa' : Word) (h : s.mapped va pa = .ok pa') :
    pa' = pa ∧ s.inIoRegion pa = false ∧ s.backed pa = true := by
  unfold State.mapped at h
  split at h
  · cases h
  · next hio =>
    split at h
    · next hb => exact ⟨(Except.ok.inj h).symm, by simpa using hio, hb⟩
    · cases h

/-- R55: a translation that gives an address found a well-formed entry that permits the access. -/
theorem State.translate_ok (s : State) (k : Access) (p : Privilege) (va pa : Word) (h : s.translate k p va = .ok pa) :
    ∃ e, s.tlbFind va = some e ∧ entryFormed e = true ∧ permits e k p = true ∧ pa = physicalOf e va := by
  unfold State.translate at h
  split at h
  · cases h
  · next e he =>
    split at h
    · next hf =>
      split at h
      · next hp => exact ⟨e, he, hf, hp, (Except.ok.inj h).symm⟩
      · cases h
    · cases h

/-- R38: a load that gives a value gives the rotated word at the physical address. -/
theorem State.load_ok (s : State) (va v : Word) (h : s.load va = .ok v) :
    ∃ pa, s.locate .read va = .ok pa ∧ v = Memory.readRotated s.mem pa := by
  unfold State.load at h
  split at h
  · next pa hp => exact ⟨pa, hp, (Except.ok.inj h).symm⟩
  · cases h

/-- R39: a store that succeeds is the rotated write at the physical address. -/
theorem State.store_ok (s : State) (va v : Word) (m : List Host.Cell) (h : s.store va v = .ok m) :
    ∃ pa, s.locate .write va = .ok pa ∧ m = Memory.writeRotated s.mem pa v := by
  unfold State.store at h
  split at h
  · next pa hp => exact ⟨pa, hp, (Except.ok.inj h).symm⟩
  · cases h

/-! ## The actions of `ext` -/

/-- R92: what an action can do: trap as invalid, trap as privileged, or act. -/
theorem State.gate_cases (s : State) (n : ExtNumber) (r : Result) :
    (s.implements n = false ∧ s.gate n r = s.raise (.extInvalid s.sr)) ∨
      (s.implements n = true ∧ n.supervisorLevel = true ∧ s.supervisor = false ∧
        s.gate n r = s.raise (.extPriv s.sr)) ∨
      (s.implements n = true ∧ (n.supervisorLevel = true → s.supervisor = true) ∧ s.gate n r = r) := by
  unfold State.gate
  cases s.implements n <;> cases n.supervisorLevel <;> cases s.supervisor <;> simp

/-- R133, R134: the high bit of the twelve that a register digit follows makes an action supervisor-level. -/
@[simp] theorem digitNumber_supervisorLevel (high : BitVec 12) (x : Fin 16) :
    (digitNumber high x).supervisorLevel = high.msb := by
  have h : (high ++ (BitVec.ofFin x : BitVec 4) ++ 0#16 : BitVec 32).msb = high.msb := by
    rw [BitVec.msb_eq_getLsbD_last, BitVec.msb_eq_getLsbD_last]
    exact BitVec.getLsbD_append.trans BitVec.getLsbD_append
  exact h

/-- R92: an implemented action at a level that may run it acts. -/
theorem State.gate_acts (s : State) (n : ExtNumber) (r : Result) (hi : s.implements n = true)
    (hs : n.supervisorLevel = true → s.supervisor = true) : s.gate n r = r := by
  rcases s.gate_cases n r with ⟨h, _⟩ | ⟨_, h, h', _⟩ | ⟨_, _, h⟩
  · rw [hi] at h
    cases h
  · rw [hs h] at h'
    cases h'
  · exact h

/-- R141: an atomic action that gives a next state loaded and stored, or took an exception. -/
theorem State.atomic_next (s t : State) (x : Reg) (op : Word → Word → Word) (h : s.atomic x op = .next t) :
    (∃ old m, s.load (s.readGpr x) = .ok old ∧ s.store (s.readGpr x) (op s.acc old) = .ok m ∧
      t = ((s.mayLoseReservation.setMem m).setAcc old).setPc (s.nextPc 1)) ∨ ∃ c, s.raise c = .next t := by
  unfold State.atomic at h
  split at h
  · obtain ⟨c, _, hc⟩ := s.stop_next t _ h
    exact .inr ⟨c, hc⟩
  · next old ho =>
    split at h
    · obtain ⟨c, _, hc⟩ := s.stop_next t _ h
      exact .inr ⟨c, hc⟩
    · next m hm => exact .inl ⟨old, m, ho, hm, (Host.Outcome.next.inj h).symm⟩

/-! ## The TLB -/

/-- R154: the three things a TLB set can do. -/
theorem State.tlbSet_cases (s : State) (va entry : Word) :
    s.tlbSet va entry = s.setTlbSet (tlbSetOf va)
        ((s.tlbLines va).map (fun l => if l.tag == tagOf va then { tag := tagOf va, entry := entry } else l)) ∨
      ((∀ l ∈ s.tlbLines va, l.tag ≠ tagOf va) ∧ (s.tlbLines va).length < s.params.tlbWays ∧
        s.tlbSet va entry = s.setTlbSet (tlbSetOf va) (s.tlbLines va ++ [{ tag := tagOf va, entry := entry }])) ∨
      ((∀ l ∈ s.tlbLines va, l.tag ≠ tagOf va) ∧ ¬(s.tlbLines va).length < s.params.tlbWays ∧
        s.tlbSet va entry = (s.setTlbSet (tlbSetOf va) ((s.tlbLines va).set
          (Config.tlbEvict s.freeCount % (s.tlbLines va).length) { tag := tagOf va, entry := entry })).drawn) := by
  unfold State.tlbSet
  simp only
  split
  · exact .inl rfl
  · next h =>
    have habs : ∀ l ∈ s.tlbLines va, l.tag ≠ tagOf va := by simpa using h
    split
    · next hl => exact .inr (.inl ⟨habs, hl, rfl⟩)
    · next hl => exact .inr (.inr ⟨habs, hl, rfl⟩)

end Sys2Proof.Machine
end

