-- ==== Sys2Proof/Laws/Exec.lean ====
section
/-! SUPPORT. What an instruction can do when it gives a next state, said once for every constructor: it takes an
exception, or it makes the update of its own. And how an instruction ends whose first access to memory is not
located. -/
namespace Sys2Proof.Machine

/-- What an exception cannot change (R182, R191, R192): every field but those that entry writes. -/
theorem State.raise_keeps {α : Type} (f : State → α) (hpc : ∀ s v, f (State.setPc s v) = f s)
    (hd : ∀ s, f (State.drawn s) = f s) (hh : ∀ s v, f (State.setHalted s v) = f s)
    (hr : ∀ s v, f (State.setReservation s v) = f s) (ha : ∀ s x v, f (State.setAur s x v) = f s)
    (h0 : ∀ s v, f (State.setSfr s v) = f s) (h1 : ∀ s v, f (State.setItr s v) = f s)
    (h2 : ∀ s v, f (State.setPfar s v) = f s) (h3 : ∀ s k v, f (State.setAsrReserved s k v) = f s) (s t : State)
    (c : TrapCause) (h : s.raise c = .next t) : f t = f s := by
  rcases s.raise_cases c with ⟨_, e⟩ | ⟨n, _, e⟩
  · rw [e] at h
    cases h
  · rw [e] at h
    obtain ⟨p, q, _, rfl⟩ := State.enter_next _ _ _ h
    unfold State.entered
    rw [hh, h0, hpc, State.mayLoseReservation_keeps f hr hd,
      State.saveContext_keeps f fun s t v => s.saveInto_keeps f ha h0 h1 h2 h3 t v]
    cases c <;> simp [State.recordTrap, h2, hd]

/-- R92: an action that gives a next state took an exception, or acted at a level that may run it. -/
theorem State.gate_next (s t : State) (n : ExtNumber) (r : Result) (h : s.gate n r = .next t) :
    (∃ c, s.raise c = .next t) ∨ (r = .next t ∧ (n.supervisorLevel = true → s.supervisor = true)) := by
  rcases s.gate_cases n r with ⟨_, e⟩ | ⟨_, _, _, e⟩ | ⟨_, k, e⟩ <;> rw [e] at h
  · exact .inl ⟨_, h⟩
  · exact .inl ⟨_, h⟩
  · exact .inr ⟨h, k⟩

/-- The update an instruction makes that is no exception; `ext` itself makes that of the action it performs. -/
def ownUpdate (s t : State) : Instr → Prop
  | .null | .trace | .extSystemCall _ | .ext => False
  | .halt => t = (s.setHalted true).setPc (s.nextPc 1)
  | .mfsr => t = (s.setAcc s.sr).setPc (s.nextPc 1)
  | .mtsr => t = (s.setSr s.acc).setPc (s.nextPc 1)
  | .mf x => t = (s.setAcc (s.readGpr x)).setPc (s.nextPc 1)
  | .mt x => t = (s.setGpr x s.acc).setPc (s.nextPc 1)
  | .jumpa => t = s.setPc s.acc
  | .calla => t = (s.setLr (s.nextPc 1)).setPc s.acc
  | .ret => t = s.setPc s.lr
  | .retl => t = (s.setLr (s.nextPc 1)).setPc s.lr
  | .mtlr => t = (s.setLr s.acc).setPc (s.nextPc 1)
  | .nop | .extDataFence _ | .extInstructionFence => t = s.setPc (s.nextPc 1)
  | .mflr | .pc | .test _ | .and _ | .or _ | .xor _ | .add _ | .shl | .shr | .extHartId | .extTlbGet _
  | .extCheckExtension _ => ∃ v, t = (s.setAcc v).setPc (s.nextPc 1)
  | .andi _ _ | .ori _ _ | .xori _ _ | .addi _ _ => ∃ v, t = (s.setAcc v).setPc (s.nextPc 3)
  | .jump _ _ => ∃ v, t = s.setPc v
  | .call c _ =>
    (condHolds c s.acc = true ∧ ∃ v, t = (s.setLr (s.nextPc 3)).setPc v) ∨ t = s.setPc (s.nextPc 3)
  | .ld _ _ => ∃ v, t = (s.mayLoseReservation.setAcc v).setPc (s.nextPc 3)
  | .st _ _ => ∃ pa, t = (s.mayLoseReservation.setMem (Memory.writeRotated s.mem pa s.acc)).setPc (s.nextPc 3)
  | .extAtomicAnd _ | .extAtomicOr _ | .extAtomicXor _ | .extAtomicAdd _ =>
    ∃ pa v w, t = ((s.mayLoseReservation.setMem (Memory.writeRotated s.mem pa v)).setAcc w).setPc (s.nextPc 1)
  | .extMoveFromAur _ | .extMoveFromAsr _ => ∃ b v, t = (s.readAuxIntoAcc b v).setPc (s.nextPc 1)
  | .extMoveToAur x => t = (s.setAur x s.acc).setPc (s.nextPc 1)
  | .extMoveToAsr x => s.supervisor = true ∧ t = (s.setAsr x s.acc).setPc (s.nextPc 1)
  | .extLoadLink x =>
    ∃ v, t = ((s.setAcc v).setReservation (some (blockOf (s.readGpr x)))).setPc (s.nextPc 1)
  | .extStoreConditional _ =>
    (∃ pa, t = (((s.setMem (Memory.writeRotated s.mem pa s.acc)).setAcc 0).setReservation none).setPc (s.nextPc 1)) ∨
      t = ((s.setAcc Word.minusOne).setReservation none).setPc (s.nextPc 1)
  | .extTlbClearAll => t = s.tlbClearAll.setPc (s.nextPc 1)
  | .extTlbClear x => t = (s.tlbClear (s.readGpr x)).setPc (s.nextPc 1)
  | .extTlbSet x => t = (s.tlbSet (s.readGpr x) s.acc).setPc (s.nextPc 1)

theorem State.stop_raises (s t : State) (e : Stop) (h : s.stop e = .next t) : ∃ c, s.raise c = .next t :=
  (s.stop_next t e h).imp fun _ hc => hc.2

theorem State.atomic_update (s t : State) (x : Reg) (op : Word → Word → Word) (h : s.atomic x op = .next t) :
    (∃ c, s.raise c = .next t) ∨ ∃ pa v w,
      t = ((s.mayLoseReservation.setMem (Memory.writeRotated s.mem pa v)).setAcc w).setPc (s.nextPc 1) := by
  rcases s.atomic_next t x op h with ⟨old, m, _, hm, rfl⟩ | h
  · obtain ⟨pa, _, rfl⟩ := s.store_ok _ _ _ hm
    exact .inr ⟨pa, _, _, rfl⟩
  · exact .inl h

/-- All that an instruction other than `ext` can do when it gives a next state. -/
theorem exec_next (i : Instr) (s t : State) (hi : i ≠ .ext) (h : exec i s = .next t) :
    (∃ c, s.raise c = .next t) ∨ ownUpdate s t i := by
  cases i
  case ext => exact absurd rfl hi
  case null => exact .inl ⟨_, h⟩
  case trace => exact .inl ⟨_, h⟩
  case extSystemCall =>
    rcases s.gate_next t _ _ h with h | h
    · exact .inl h
    · exact .inl ⟨_, h.1⟩
  case extAtomicAnd =>
    rcases s.gate_next t _ _ h with h | h
    · exact .inl h
    · exact s.atomic_update t _ _ h.1
  case extAtomicOr =>
    rcases s.gate_next t _ _ h with h | h
    · exact .inl h
    · exact s.atomic_update t _ _ h.1
  case extAtomicXor =>
    rcases s.gate_next t _ _ h with h | h
    · exact .inl h
    · exact s.atomic_update t _ _ h.1
  case extAtomicAdd =>
    rcases s.gate_next t _ _ h with h | h
    · exact .inl h
    · exact s.atomic_update t _ _ h.1
  case extLoadLink =>
    rcases s.gate_next t _ _ h with h | h
    · exact .inl h
    have h := h.1
    unfold State.loadLink at h
    split at h
    · exact .inr ⟨_, (Host.Outcome.next.inj h).symm⟩
    · exact .inl (s.stop_raises t _ h)
  case extStoreConditional =>
    rcases s.gate_next t _ _ h with h | h
    · exact .inl h
    have h := h.1
    unfold State.storeConditional at h
    split at h
    · split at h
      · next m hm =>
        obtain ⟨pa, _, rfl⟩ := s.store_ok _ _ _ hm
        exact .inr (.inl ⟨pa, (Host.Outcome.next.inj h).symm⟩)
      · exact .inl (s.stop_raises t _ h)
    · exact .inr (.inr (Host.Outcome.next.inj h).symm)
  case ld =>
    simp only [exec, execLd] at h
    split at h
    · exact .inr ⟨_, (Host.Outcome.next.inj h).symm⟩
    · exact .inl (s.stop_raises t _ h)
  case st =>
    simp only [exec, execSt] at h
    split at h
    · next m hm =>
      obtain ⟨pa, _, rfl⟩ := s.store_ok _ _ _ hm
      exact .inr ⟨pa, (Host.Outcome.next.inj h).symm⟩
    · exact .inl (s.stop_raises t _ h)
  case call =>
    simp only [exec, execCall] at h
    split at h
    · next hc => exact .inr (.inl ⟨hc, _, (Host.Outcome.next.inj h).symm⟩)
    · exact .inr (.inr (Host.Outcome.next.inj h).symm)
  case extMoveToAsr x =>
    rcases s.gate_next t _ _ h with h | h
    · exact .inl h
    exact .inr ⟨h.2 (digitNumber_supervisorLevel _ x), (Host.Outcome.next.inj h.1).symm⟩
  all_goals first
    | exact .inr (Host.Outcome.next.inj h).symm
    | exact .inr ⟨_, (Host.Outcome.next.inj h).symm⟩
    | (rcases s.gate_next t _ _ h with h | h
       · exact .inl h
       first
       | exact .inr (Host.Outcome.next.inj h.1).symm
       | exact .inr ⟨_, (Host.Outcome.next.inj h.1).symm⟩
       | exact .inr ⟨_, _, (Host.Outcome.next.inj h.1).symm⟩)

/-- `ext` that gives a next state took an exception or performed an action. -/
theorem exec_ext_next (s t : State) (h : exec .ext s = .next t) :
    (∃ c, s.raise c = .next t) ∨ ∃ i, decodeAction s.sr = .ok i ∧ i ≠ .ext ∧ exec i s = .next t := by
  simp only [exec, execExt] at h
  split at h
  · exact .inl ⟨_, h⟩
  · next i hi =>
    cases i
    all_goals first
      | exact .inr ⟨_, hi, by simp, h⟩
      | exact .inl ⟨_, h⟩

/-! ## The first access to memory -/

/-- R136: what an action word names is an action. -/
theorem decodeAction_isAction (w : Word) (i : Instr) (h : decodeAction w = .ok i) : i.actionNumber ≠ none := by
  unfold decodeAction at h
  split at h
  · next r hr =>
    have hm := List.mem_of_find?_eq_some hr
    cases h
    simp only [actionRows, List.mem_cons, List.not_mem_nil, or_false] at hm
    rcases hm with rfl | rfl | rfl | rfl | rfl | rfl | rfl | rfl | rfl | rfl | rfl | rfl | rfl | rfl | rfl | rfl | rfl |
      rfl | rfl <;> simp [Instr.actionNumber]
  · cases h

/-- R92, R133: an implemented user-level action with a register digit acts. -/
theorem State.gate_user (s : State) (high : BitVec 12) (x : Fin 16) (r : Result)
    (hi : s.implements (digitNumber high x) = true) (hl : high.msb = false) : s.gate (digitNumber high x) r = r :=
  s.gate_acts _ _ hi fun h => by rw [digitNumber_supervisorLevel, hl] at h; cases h

/-- An instruction whose first access to memory is not located ends as the access does. -/
theorem exec_of_firstAccess (s : State) (k : Access) (va : Word) (e : Stop) (h : s.locate k va = .error e) (i : Instr)
    (ha : FirstAccess s i k va) : exec i s = s.stop e := by
  induction ha with
  | load x imm => simp [exec, execLd, State.load, h]
  | store x imm => simp [exec, execSt, State.store, h]
  | atomic x i n ha hi => cases ha <;> exact (s.gate_user _ x _ hi rfl).trans (by simp [State.atomic, State.load, h])
  | loadLink x hi => exact (s.gate_user _ x _ hi rfl).trans (by simp [State.loadLink, State.load, h])
  | storeConditional x hi hr =>
    exact (s.gate_user _ x _ hi rfl).trans (by simp [State.storeConditional, State.store, h, hr])
  | performed i k va hw ha ih =>
    rw [← ih h]
    simp only [exec, execExt, hw]
    cases ha with
    | atomic x i n ha hi => cases ha <;> rfl
    | loadLink => rfl
    | storeConditional => rfl
    | load => exact absurd rfl (decodeAction_isAction _ _ hw)
    | store => exact absurd rfl (decodeAction_isAction _ _ hw)
    | performed => exact absurd rfl (decodeAction_isAction _ _ hw)

end Sys2Proof.Machine
end

