-- ==== Sys2Proof/Laws/Operands.lean ====
section
/-! SUPPORT. The parts of an address and the addresses made of parts, as numbers. -/
namespace Sys2Proof.Machine

/-- Two fields side by side, as a number. -/
theorem toNat_fields {h l : Nat} (x : BitVec h) (y : BitVec l) : (x ++ y).toNat = x.toNat * 2 ^ l + y.toNat := by
  rw [BitVec.toNat_append, ← Nat.shiftLeft_add_eq_or_of_lt y.isLt, Nat.shiftLeft_eq]

/-- R36: the address of the aligned block. -/
theorem blockOf_toNat (a : Word) : (blockOf a).toNat = a.toNat / 8 * 8 := by
  have h : (blockOf a).toNat = (a.extractLsb' 3 61).toNat * 2 ^ 3 + (0#3).toNat := toNat_fields _ _
  have := a.isLt
  rw [h]
  simp only [BitVec.extractLsb'_toNat, Nat.shiftRight_eq_div_pow, BitVec.toNat_ofNat]
  omega

/-- R36: the rotation count. -/
theorem rotCount_eq (a : Word) : rotCount a = a.toNat % 8 := by
  simp [rotCount]

/-- R36: the address of a byte of the block. -/
theorem blockOf_add_toNat (a : Word) (i : Nat) (hi : i < 8) :
    (blockOf a + BitVec.ofNat 64 i).toNat = a.toNat / 8 * 8 + i := by
  have := a.isLt
  rw [BitVec.toNat_add, blockOf_toNat, BitVec.toNat_ofNat]
  omega

/-- R51: the set of a virtual address. -/
theorem tlbSetOf_val (va : Word) : (tlbSetOf va).val = va.toNat / 4096 % 16 := by
  simp [tlbSetOf, Nat.shiftRight_eq_div_pow]

/-- R51: the tag of a virtual address. -/
theorem tagOf_toNat (va : Word) : (tagOf va).toNat = va.toNat / 65536 := by
  have := va.isLt
  simp only [tagOf, BitVec.extractLsb'_toNat, Nat.shiftRight_eq_div_pow]
  omega

/-- R51, R54: the set and the tag together are the page. -/
theorem samePage_iff (va va' : Word) :
    va.toNat / 4096 = va'.toNat / 4096 ↔ tlbSetOf va = tlbSetOf va' ∧ tagOf va = tagOf va' := by
  rw [Fin.ext_iff, BitVec.toNat_eq, tlbSetOf_val, tlbSetOf_val, tagOf_toNat, tagOf_toNat]
  omega

/-- R55: the physical address. -/
theorem physicalOf_toNat (entry va : Word) :
    (physicalOf entry va).toNat = entry.toNat / 4096 * 4096 + va.toNat % 4096 := by
  have h : (physicalOf entry va).toNat = (entry.extractLsb' 12 52).toNat * 2 ^ 12 + (va.extractLsb' 0 12).toNat :=
    toNat_fields _ _
  have := entry.isLt
  rw [h]
  simp only [BitVec.extractLsb'_toNat, Nat.shiftRight_eq_div_pow]
  omega

/-- R26: `asr1` as it reads, the page number with twelve zero bits below. -/
theorem itrValue_toNat (itr : BitVec 52) : (itr ++ 0#12 : BitVec (52 + 12)).toNat = itr.toNat * 4096 := by
  rw [toNat_fields]
  simp

/-- R189: the address of an entry of the interrupt table. -/
theorem tableEntryAddr_toNat (itr : BitVec 52) (n : BitVec 8) :
    (tableEntryAddr itr n).toNat = itr.toNat * 4096 + 16 * n.toNat := by
  have h : (tableEntryAddr itr n).toNat =
      ((itr ++ 0#12 : BitVec (52 + 12)).toNat + (n.setWidth 64 <<< 4).toNat) % 2 ^ 64 := BitVec.toNat_add _ _
  have := itr.isLt
  have := n.isLt
  rw [h, itrValue_toNat, BitVec.toNat_shiftLeft, BitVec.toNat_setWidth, Nat.shiftLeft_eq]
  omega

end Sys2Proof.Machine
end

