-- ==== Sys2Proof/Laws/PerInstr.lean ====
section
/-! SUPPORT. Statements about every instruction, one lemma per constructor. -/
namespace Sys2Proof.Laws

/-- R63: the encoding of an instruction is a first byte and, exactly when its bit 7 is set, two more bytes. -/
def EncodedLength.Statement (i : Instr) : Prop :=
  ∃ b0 rest, encode i = b0 :: rest ∧ rest.length = if b0.msb then 2 else 0

/-- A short instruction is its first byte alone (R65). -/
theorem EncodedLength.shortForm (i : Instr) (op arg : BitVec 4) (h : encode i = encodeS op arg) (hop : op.msb = false) :
    EncodedLength.Statement i :=
  ⟨firstByte op arg, [], h, by simp [msb_firstByte, hop]⟩

/-- A long instruction is its first byte and two bytes of immediate (R67). -/
theorem EncodedLength.longForm (i : Instr) (op arg : BitVec 4) (imm : Imm) (h : encode i = encodeL op arg imm)
    (hop : op.msb = true) : EncodedLength.Statement i :=
  ⟨firstByte op arg, [imm.extractLsb' 0 8, imm.extractLsb' 8 8], h, by simp [msb_firstByte, hop]⟩

theorem EncodedLength.null : EncodedLength.Statement .null := EncodedLength.shortForm _ _ _ rfl rfl

theorem EncodedLength.trace : EncodedLength.Statement .trace := EncodedLength.shortForm _ _ _ rfl rfl

theorem EncodedLength.halt : EncodedLength.Statement .halt := EncodedLength.shortForm _ _ _ rfl rfl

theorem EncodedLength.ext : EncodedLength.Statement .ext := EncodedLength.shortForm _ _ _ rfl rfl

theorem EncodedLength.mfsr : EncodedLength.Statement .mfsr := EncodedLength.shortForm _ _ _ rfl rfl

theorem EncodedLength.mtsr : EncodedLength.Statement .mtsr := EncodedLength.shortForm _ _ _ rfl rfl

theorem EncodedLength.shl : EncodedLength.Statement .shl := EncodedLength.shortForm _ _ _ rfl rfl

theorem EncodedLength.shr : EncodedLength.Statement .shr := EncodedLength.shortForm _ _ _ rfl rfl

theorem EncodedLength.jumpa : EncodedLength.Statement .jumpa := EncodedLength.shortForm _ _ _ rfl rfl

theorem EncodedLength.calla : EncodedLength.Statement .calla := EncodedLength.shortForm _ _ _ rfl rfl

theorem EncodedLength.ret : EncodedLength.Statement .ret := EncodedLength.shortForm _ _ _ rfl rfl

theorem EncodedLength.retl : EncodedLength.Statement .retl := EncodedLength.shortForm _ _ _ rfl rfl

theorem EncodedLength.mflr : EncodedLength.Statement .mflr := EncodedLength.shortForm _ _ _ rfl rfl

theorem EncodedLength.mtlr : EncodedLength.Statement .mtlr := EncodedLength.shortForm _ _ _ rfl rfl

theorem EncodedLength.pc : EncodedLength.Statement .pc := EncodedLength.shortForm _ _ _ rfl rfl

theorem EncodedLength.nop : EncodedLength.Statement .nop := EncodedLength.shortForm _ _ _ rfl rfl

theorem EncodedLength.test (c : Cond) : EncodedLength.Statement (.test c) := EncodedLength.shortForm _ _ _ rfl rfl

theorem EncodedLength.mf (x : Reg) : EncodedLength.Statement (.mf x) := EncodedLength.shortForm _ _ _ rfl rfl

theorem EncodedLength.mt (x : Reg) : EncodedLength.Statement (.mt x) := EncodedLength.shortForm _ _ _ rfl rfl

theorem EncodedLength.and (x : Reg) : EncodedLength.Statement (.and x) := EncodedLength.shortForm _ _ _ rfl rfl

theorem EncodedLength.or (x : Reg) : EncodedLength.Statement (.or x) := EncodedLength.shortForm _ _ _ rfl rfl

theorem EncodedLength.xor (x : Reg) : EncodedLength.Statement (.xor x) := EncodedLength.shortForm _ _ _ rfl rfl

theorem EncodedLength.add (x : Reg) : EncodedLength.Statement (.add x) := EncodedLength.shortForm _ _ _ rfl rfl

theorem EncodedLength.jump (c : Cond) (imm : Imm) : EncodedLength.Statement (.jump c imm) := EncodedLength.longForm _ _ _ _ rfl rfl

theorem EncodedLength.call (c : Cond) (imm : Imm) : EncodedLength.Statement (.call c imm) := EncodedLength.longForm _ _ _ _ rfl rfl

theorem EncodedLength.ld (x : Reg) (imm : Imm) : EncodedLength.Statement (.ld x imm) := EncodedLength.longForm _ _ _ _ rfl rfl

theorem EncodedLength.st (x : Reg) (imm : Imm) : EncodedLength.Statement (.st x imm) := EncodedLength.longForm _ _ _ _ rfl rfl

theorem EncodedLength.andi (m : Mode) (imm : Imm) : EncodedLength.Statement (.andi m imm) := EncodedLength.longForm _ _ _ _ rfl rfl

theorem EncodedLength.ori (m : Mode) (imm : Imm) : EncodedLength.Statement (.ori m imm) := EncodedLength.longForm _ _ _ _ rfl rfl

theorem EncodedLength.xori (m : Mode) (imm : Imm) : EncodedLength.Statement (.xori m imm) := EncodedLength.longForm _ _ _ _ rfl rfl

theorem EncodedLength.addi (m : Mode) (imm : Imm) : EncodedLength.Statement (.addi m imm) := EncodedLength.longForm _ _ _ _ rfl rfl

theorem EncodedLength.extDataFence (flags : BitVec 8) : EncodedLength.Statement (.extDataFence flags) := EncodedLength.shortForm _ _ _ rfl rfl

theorem EncodedLength.extInstructionFence : EncodedLength.Statement .extInstructionFence := EncodedLength.shortForm _ _ _ rfl rfl

theorem EncodedLength.extMoveFromAur (x : Fin 16) : EncodedLength.Statement (.extMoveFromAur x) := EncodedLength.shortForm _ _ _ rfl rfl

theorem EncodedLength.extMoveToAur (x : Fin 16) : EncodedLength.Statement (.extMoveToAur x) := EncodedLength.shortForm _ _ _ rfl rfl

theorem EncodedLength.extAtomicAnd (x : Reg) : EncodedLength.Statement (.extAtomicAnd x) := EncodedLength.shortForm _ _ _ rfl rfl

theorem EncodedLength.extAtomicOr (x : Reg) : EncodedLength.Statement (.extAtomicOr x) := EncodedLength.shortForm _ _ _ rfl rfl

theorem EncodedLength.extAtomicXor (x : Reg) : EncodedLength.Statement (.extAtomicXor x) := EncodedLength.shortForm _ _ _ rfl rfl

theorem EncodedLength.extAtomicAdd (x : Reg) : EncodedLength.Statement (.extAtomicAdd x) := EncodedLength.shortForm _ _ _ rfl rfl

theorem EncodedLength.extLoadLink (x : Reg) : EncodedLength.Statement (.extLoadLink x) := EncodedLength.shortForm _ _ _ rfl rfl

theorem EncodedLength.extStoreConditional (x : Reg) : EncodedLength.Statement (.extStoreConditional x) := EncodedLength.shortForm _ _ _ rfl rfl

theorem EncodedLength.extSystemCall (free : BitVec 32) : EncodedLength.Statement (.extSystemCall free) := EncodedLength.shortForm _ _ _ rfl rfl

theorem EncodedLength.extHartId : EncodedLength.Statement .extHartId := EncodedLength.shortForm _ _ _ rfl rfl

theorem EncodedLength.extMoveFromAsr (x : Fin 16) : EncodedLength.Statement (.extMoveFromAsr x) := EncodedLength.shortForm _ _ _ rfl rfl

theorem EncodedLength.extMoveToAsr (x : Fin 16) : EncodedLength.Statement (.extMoveToAsr x) := EncodedLength.shortForm _ _ _ rfl rfl

theorem EncodedLength.extTlbClearAll : EncodedLength.Statement .extTlbClearAll := EncodedLength.shortForm _ _ _ rfl rfl

theorem EncodedLength.extTlbClear (x : Reg) : EncodedLength.Statement (.extTlbClear x) := EncodedLength.shortForm _ _ _ rfl rfl

theorem EncodedLength.extTlbGet (x : Reg) : EncodedLength.Statement (.extTlbGet x) := EncodedLength.shortForm _ _ _ rfl rfl

theorem EncodedLength.extTlbSet (x : Reg) : EncodedLength.Statement (.extTlbSet x) := EncodedLength.shortForm _ _ _ rfl rfl

theorem EncodedLength.extCheckExtension (n : ExtNumber) : EncodedLength.Statement (.extCheckExtension n) := EncodedLength.shortForm _ _ _ rfl rfl

end Sys2Proof.Laws
end

