-- ==== Sys2Proof/Tests/Slice0.lean ====
section
/-! SUPPORT. The model's own tests. The expected values are those of `spec/95_test_vectors.md` (named in each comment)
or are worked out by hand from the rule named. A theorem whose name begins `witness_` shows a state and operands that
meet all the hypotheses of the obligation it is named for, clause by clause. -/
namespace Sys2Proof.Tests
open Sys2Proof.Machine

/-! ## Helpers -/

/-- What a function reads from the next state of an outcome. -/
def got {α : Type} (f : State → α) : Result → Option α
  | .next t => some (f t)
  | .fault _ => none
  | .refused _ => none

def isNext (r : Result) : Bool := (got (fun _ => ()) r).isSome

theorem next_of_isNext {r : Result} (h : isNext r = true) : ∃ t, r = .next t := by
  cases r with
  | next t => exact ⟨t, rfl⟩
  | fault _ => cases h
  | refused _ => cases h

/-- The reset state with an accumulator and a shift register; `pc` is `1000`. -/
def at_ (acc sr : Word) : State := (State.reset.setAcc acc).setSr sr

/-- The cells of bytes at consecutive addresses, for bytes that are not what an unlisted address reads as. -/
def cells : Nat → List Byte → List Host.Cell
  | _, [] => []
  | a, b :: rest => (a, b) :: cells (a + 1) rest

/-- A state of the BASE profile. -/
def base : State := { State.reset with params := { Config.launch with profile := .base } }

/-- A state at user level. -/
def user : State := State.reset.setSfr 0

/-- A state whose data accesses and fetches are translated, at user level, with one TLB line: tag 1, set 5, page
`45000`, readable by both levels (V10). -/
def paged : State :=
  { user with
    params := { Config.launch with
      translation :=
        { userData := true, userFetch := true, supervisorData := true, supervisorFetch := true, table := none } }
    gpr := (Vector.replicate 16 0).set 1 0x15000#64
    tlb := (Vector.replicate 16 []).set 5 [{ tag := 1#48, entry := 0x45844#64 }] }

/-- A state in which every event has number 3, `itr` is page `45`, and entry 3 holds `pc = 2001`, `asr0 = 5` (S11). -/
def tabled : State :=
  { State.reset with
    params := { Config.launch with
      trapEntry :=
        { excNull := some 3, excTrace := some 3, excExtInvalid := some 3, excExtPriv := some 3, excSyscall := some 3
          intProt := some 3 } }
    itr := 0x45#52
    mem := [(0x45030, 0x01#8), (0x45031, 0x20#8), (0x45038, 0x05#8)] }

/-- The state `tabled` with three saves, of which the last replaces the first. -/
def saving : State :=
  { tabled with params := { tabled.params with intSave := [(.acc, .aur 2), (.pc, .asr 1), (.lr, .aur 2)] } }

/-! ## Encoding -/

/-- Bytes `00` to `0f`, by `30_encoding.md` R69. -/
theorem test_decode_misc :
    [0b0000_0000#8, 0b0000_0001#8, 0b0000_0010#8, 0b0000_0011#8, 0b0000_0100#8, 0b0000_0101#8, 0b0000_0110#8,
      0b0000_0111#8, 0b0000_1000#8, 0b0000_1001#8, 0b0000_1010#8, 0b0000_1011#8, 0b0000_1100#8, 0b0000_1101#8,
      0b0000_1110#8, 0b0000_1111#8].map (fun b => (decode [b]).toOption) =
    [Instr.null, .trace, .halt, .ext, .mfsr, .mtsr, .shl, .shr, .jumpa, .calla, .ret, .retl, .mflr, .mtlr, .pc,
      .nop].map (fun i => some (i, [])) := by decide

/-- Bytes `1x` to `7x`, by R68; `1c`, `2e`, `3e`, `41`, `51`, `61`, `72` of V1 and V6. -/
theorem test_decode_short :
    [0b0001_1100#8, 0b0010_1110#8, 0b0011_1110#8, 0b0100_0001#8, 0b0101_0001#8, 0b0110_0001#8,
      0b0111_0010#8].map (fun b => (decode [b]).toOption) =
    [Instr.test 0xc#4, .mf 14, .mt 14, .and 1, .or 1, .xor 1, .add 2].map (fun i => some (i, [])) := by decide

/-- Bytes `8x` to `fx`, by R68 and R71; the words of V7, V8 and V9. -/
theorem test_decode_long :
    [[0b1000_1110#8, 0xfa#8, 0xff#8], [0b1001_0001#8, 0x10#8, 0x00#8], [0b1010_0011#8, 0xfe#8, 0xff#8],
      [0b1011_1110#8, 0x08#8, 0x00#8], [0b1100_0011#8, 0xf8#8, 0xff#8], [0b1101_1100#8, 0x34#8, 0x12#8],
      [0b1110_0011#8, 0xff#8, 0xff#8], [0b1111_0011#8, 0xf0#8, 0xff#8]].map (fun bs => (decode bs).toOption) =
    [Instr.jump 0xe#4 0xfffa#16, .call 0x1#4 0x0010#16, .ld 3 0xfffe#16, .st 14 0x0008#16, .andi 0x3#4 0xfff8#16,
      .ori 0xc#4 0x1234#16, .xori 0x3#4 0xffff#16, .addi 0x3#4 0xfff0#16].map (fun i => some (i, [])) := by decide

/-- The user-level action words, by `44_extensions.md` R136 and V10. -/
theorem test_decode_user_actions :
    [0x0010_a5ff_0000_0000#64, 0x0011_0000_0000_0000#64, 0x0023_0000_0000_0000#64, 0x003f_0000_0000_0001#64,
      0x0040_0000_0000_0000#64, 0x0051_0000_0000_0000#64, 0x006e_0000_0000_0000#64, 0x0075_0000_0000_0000#64,
      0x00a1_0000_0000_0000#64, 0x00b1_8000_0000_0000#64, 0x7fff_ffff_0000_002a#64].map
        (fun w => (decodeAction w).toOption) =
    [Instr.extDataFence 0xa5#8, .extInstructionFence, .extMoveFromAur 3, .extMoveToAur 15, .extAtomicAnd 0,
      .extAtomicOr 1, .extAtomicXor 14, .extAtomicAdd 5, .extLoadLink 1, .extStoreConditional 1,
      .extSystemCall 0x2a#32].map some := by decide

/-- The supervisor-level action words, by R136, S8 and V10. -/
theorem test_decode_supervisor_actions :
    [0x8010_0000_0000_0000#64, 0x8020_0000_0000_0000#64, 0x8031_0000_0000_0000#64, 0x8040_ffff_ffff_ffff#64,
      0x805f_0000_0000_0000#64, 0x8062_0000_0000_0000#64, 0x8071_0000_0000_0000#64, 0xffff_ffff_1234_0000#64,
      0xffff_ffff_0001_ffff#64, 0xffff_ffff_7fff_ffff#64].map (fun w => (decodeAction w).toOption) =
    [Instr.extHartId, .extMoveFromAsr 0, .extMoveToAsr 1, .extTlbClearAll, .extTlbClear 15, .extTlbGet 2, .extTlbSet 1,
      .extCheckExtension (.two 0x1234#16), .extCheckExtension (.two 0x0001#16),
      .extCheckExtension (.four 0x7fffffff#32)].map some := by decide

/-- V10, S7: words of unassigned numbers name no action. -/
theorem test_decode_invalid_actions :
    [0x7eff_0000_0000_0000#64, 0x7f00_0000_0000_0000#64, 0xfeff_0000_0000_0000#64, 0x1234_ef00_0000_0000#64,
      0x7f12_3456_cdef_0000#64, 0x7fff_fffe_0000_0000#64].all (fun w => (decodeAction w).toOption.isNone) := by decide

/-- V1: the byte after a short instruction starts the next; a long one needs three bytes. -/
theorem test_decode_rest :
    (decode [0x7f#8, 0x80#8, 0x00#8, 0x00#8]).toOption = some (.add 15, [0x80#8, 0x00#8, 0x00#8]) ∧
      (decode [0x80#8, 0x00#8]).toOption = none := by decide

/-- S1: the bytes of `addi $111x, -16`. -/
theorem test_encode : encode (.addi 0x3#4 0xfff0#16) = [0xf3#8, 0xf0#8, 0xff#8] ∧ encode .extHartId = [0x03#8] := by
  decide

/-- R137, R155: the words of an action with its argument. -/
theorem test_encode_action :
    encodeAction (.extDataFence 0xff#8) = some 0x0010_ff00_0000_0000#64 ∧
      encodeAction (.extCheckExtension (.two 0x1234#16)) = some 0xffff_ffff_1234_0000#64 ∧ encodeAction .nop = none := by
  decide

/-- R131, R132: numbers of the wrong length for their first byte are ill formed. -/
theorem test_wellFormed_refuses :
    (Instr.extCheckExtension (.two 0x7f12#16)).wellFormed = false ∧
      (Instr.extCheckExtension (.two 0xff00#16)).wellFormed = false ∧
      (Instr.extCheckExtension (.four 0x12345678#32)).wellFormed = false ∧
      (Instr.extCheckExtension (.four 0xfeffffff#32)).wellFormed = false := by decide

/-- Rows of the opcode table as the table numbers their bits. -/
theorem test_tableWord :
    decodeTableWord 8 0x2e = some (.mf 14) ∧ decodeTableWord 24 0xfffaa3 = some (.ld 3 0xfffa#16) ∧
      decodeTableWord 8 0xb0 = some (.st 0 0#16) ∧
      decodeTableWord 64 0x0075000000000000 = some (.extAtomicAdd 5) := by decide

/-- The word placed is the one the very next step runs: `test 0xf`, then `addi $111x, -16` (R107, R127). -/
theorem test_withFetchWord :
    got State.acc (step (State.reset.withFetchWord 8 0x1f)) = some 0xffff_ffff_ffff_ffff#64 ∧
      got State.acc (step (State.reset.withFetchWord 24 0xfff0f3)) = some 0xffff_ffff_ffff_fff0#64 := by decide

/-- The same for an action word: the atomic add of V10, and of a word that names no action a trap. -/
theorem test_withFetchWord_action :
    got State.sr (step (State.reset.withFetchWord 64 0x0075000000000000)) = some 0x0075_0000_0000_0000#64 ∧
      isNext (step (State.reset.withFetchWord 64 0x7eff000000000000)) = false := by decide

/-! ## Operands and conditions -/

/-- V3, every mode on `abcd`. -/
theorem test_ximm :
    (List.range 16).map (fun m => ximm (BitVec.ofNat 4 m) 0xabcd#16) =
    [0x0000_0000_0000_abcd#64, 0x0000_0000_ffff_abcd#64, 0xffff_ffff_0000_abcd#64, 0xffff_ffff_ffff_abcd#64,
      0x0000_0000_abcd_0000#64, 0x0000_0000_abcd_ffff#64, 0xffff_ffff_abcd_0000#64, 0xffff_ffff_abcd_ffff#64,
      0x0000_abcd_0000_0000#64, 0xffff_abcd_0000_0000#64, 0x0000_abcd_ffff_ffff#64, 0xffff_abcd_ffff_ffff#64,
      0xabcd_0000_0000_0000#64, 0xabcd_ffff_0000_0000#64, 0xabcd_0000_ffff_ffff#64, 0xabcd_ffff_ffff_ffff#64] := by
  decide

/-- V2. -/
theorem test_simm :
    [0x0000#16, 0x0001#16, 0x7fff#16, 0x8000#16, 0xfff5#16, 0xffff#16].map simm =
    [0#64, 1#64, 0x7fff#64, 0xffff_ffff_ffff_8000#64, 0xffff_ffff_ffff_fff5#64, 0xffff_ffff_ffff_ffff#64] := by decide

/-- V4, column by column: the conditions that hold of an accumulator, condition `c` at bit `c`. -/
theorem test_cond :
    [0#64, 1#64, 0x7fff_ffff_ffff_ffff#64, 0x8000_0000_0000_0000#64, 0x8000_0000_0000_0001#64,
      0xffff_ffff_ffff_ffff#64].map (fun acc => (List.range 16).map (fun c => condHolds (BitVec.ofNat 4 c) acc)) =
    [0xaaaa#16, 0xcccc#16, 0xcccc#16, 0xf0f0#16, 0xff00#16, 0xff00#16].map
      (fun holds => (List.range 16).map (fun c => holds.getLsbD c)) := by decide

/-! ## The instructions of one byte (V5, V6) -/

theorem test_null : exec .null base = .fault (.trapped .nullTrap 0x1000#64) := by rfl

theorem test_trace : exec .trace base = .fault (.trapped .traceTrap 0x1000#64) := by rfl

theorem test_halt : got (fun t => (t.halted, t.pc)) (exec .halt State.reset) = some (true, 0x1001#64) := by decide

theorem test_ext_base :
    exec .ext (base.setSr 0x0010_ff00_0000_0000#64) =
      .fault (.trapped (.extInvalid 0x0010_ff00_0000_0000#64) 0x1000#64) := by rfl

theorem test_mfsr : got (fun t => (t.acc, t.pc)) (exec .mfsr (at_ 7 0xff)) = some (0xff#64, 0x1001#64) := by decide

theorem test_mtsr :
    got (fun t => (t.sr, t.acc)) (exec .mtsr (at_ 0x1234_0000_0000_0000#64 0)) =
      some (0x1234_0000_0000_0000#64, 0x1234_0000_0000_0000#64) := by decide

theorem test_shl :
    [at_ 0x44 1, at_ 0x3f 0x8000_0000_0000_0000#64, at_ 0x40 0xffff_ffff_ffff_ffff#64,
      at_ 8 0x0123_4567_89ab_cdef#64, at_ 0xffff_ffff_ffff_ffff#64 1].map (fun s => got State.acc (exec .shl s)) =
    [0x10#64, 0#64, 0xffff_ffff_ffff_ffff#64, 0x2345_6789_abcd_ef00#64, 0x8000_0000_0000_0000#64].map some := by decide

theorem test_shr :
    [at_ 0x3f 0x8000_0000_0000_0000#64, at_ 0xffff_ffff_ffff_ffff#64 0xffff_ffff_ffff_ffff#64,
      at_ 8 0x0123_4567_89ab_cdef#64, at_ 0 0xffff_ffff_ffff_ffff#64].map (fun s => got State.acc (exec .shr s)) =
    [1#64, 1#64, 0x0001_2345_6789_abcd#64, 0xffff_ffff_ffff_ffff#64].map some := by decide

theorem test_jumpa : got (fun t => (t.pc, t.lr)) (exec .jumpa (at_ 0x2003 0)) = some (0x2003#64, 0#64) := by decide

theorem test_calla : got (fun t => (t.pc, t.lr)) (exec .calla (at_ 0x2000 0)) = some (0x2000#64, 0x1001#64) := by decide

theorem test_ret :
    got (fun t => (t.pc, t.lr)) (exec .ret (State.reset.setLr 0x3000)) = some (0x3000#64, 0x3000#64) := by decide

theorem test_retl :
    got (fun t => (t.pc, t.lr)) (exec .retl (State.reset.setLr 0x3000)) = some (0x3000#64, 0x1001#64) := by decide

theorem test_mflr : got State.acc (exec .mflr (State.reset.setLr 0x3000)) = some 0x3000#64 := by decide

theorem test_mtlr : got State.lr (exec .mtlr (at_ 0x3000 0)) = some 0x3000#64 := by decide

theorem test_pc :
    got (fun t => (t.acc, t.pc)) (exec .pc State.reset) = some (0x1001#64, 0x1001#64) ∧
      got (fun t => (t.acc, t.pc)) (exec .pc (State.reset.setPc 0xffff_ffff_ffff_ffff#64)) = some (0#64, 0#64) := by
  decide

theorem test_nop : got (fun t => (t.acc, t.pc)) (exec .nop (at_ 9 0)) = some (9#64, 0x1001#64) := by decide

/-- S4. -/
theorem test_test :
    [0#64, 1#64, 0x8000_0000_0000_0000#64, 0xffff_ffff_ffff_ffff#64].map
        (fun a => got State.acc (exec (.test 0x5#4) (at_ a 0))) =
    [0xffff_ffff_ffff_ffff#64, 0#64, 0xffff_ffff_ffff_ffff#64, 0#64].map some := by decide

theorem test_mf : got State.acc (exec (.mf 14) (State.reset.setGpr 14 0x8000)) = some 0x8000#64 := by decide

theorem test_mt :
    got (fun t => (t.readGpr 14, t.readGpr 15)) (exec (.mt 14) (at_ 0x7ff0 0)) = some (0x7ff0#64, 0#64) := by decide

theorem test_register_logic :
    [Instr.and 1, .or 1, .xor 1].map (fun i => got State.acc (exec i ((at_ 0xff0f 0).setGpr 1 0x0ff0))) =
    [0x0f00#64, 0xffff#64, 0xf0ff#64].map some := by decide

theorem test_add :
    got State.acc (exec (.add 2) ((at_ 5 0).setGpr 2 0xffff_ffff_ffff_fffd#64)) = some 2#64 ∧
      got State.acc (exec (.add 2) ((at_ 0xffff_ffff_ffff_ffff#64 0).setGpr 2 1)) = some 0#64 := by decide

/-! ## The instructions of three bytes (V7, V8, V9) -/

theorem test_jump :
    got State.pc (exec (.jump 0xe#4 0xfffa#16) (at_ 1 0)) = some 0x0ffd#64 ∧
      got State.pc (exec (.jump 0xe#4 0xfffa#16) (at_ 0 0)) = some 0x1003#64 := by decide

/-- D4: the target wraps. -/
theorem test_jump_wraps : got State.pc (exec (.jump 0xf#4 0x8000#16) (at_ 0 0)) = some 0xffff_ffff_ffff_9003#64 := by
  decide

theorem test_call :
    got (fun t => (t.lr, t.pc)) (exec (.call 0xf#4 0x0010#16) (at_ 0 0)) = some (0x1003#64, 0x1013#64) ∧
      got (fun t => (t.lr, t.pc)) (exec (.call 0x1#4 0x0010#16) ((at_ 5 0).setLr 0x77)) =
        some (0x77#64, 0x1003#64) := by decide

/-- V8: memory `100..107` is `11 22 33 44 55 66 77 88`, `r1 = 100`; the displacements 1 and 7. -/
theorem test_ld :
    [0x0001#16, 0x0007#16].map (fun d => got State.acc (exec (.ld 1 d)
      ((State.reset.setGpr 1 0x100).setMem
        (cells 0x100 [0x11#8, 0x22#8, 0x33#8, 0x44#8, 0x55#8, 0x66#8, 0x77#8, 0x88#8])))) =
    [0x1188_7766_5544_3322#64, 0x7766_5544_3322_1188#64].map some := by decide

/-- V8: a load of a block that is not backed, in BASE. -/
theorem test_ld_unmapped :
    exec (.ld 1 0#16) (({ base with params := { base.params with memMap := [] } }).setGpr 1 0x5000) =
      .fault (.memUnmapped 0x1000#64 0x5000#64) := by rfl

/-- V8 (`st r1, 7`) and S3: the bytes of the block, in order. -/
theorem test_st :
    got State.mem (exec (.st 1 0x0007#16) ((at_ 0x0102_0304_0506_0708#64 0).setGpr 1 0x100)) =
      some (cells 0x100 [0x07#8, 0x06#8, 0x05#8, 0x04#8, 0x03#8, 0x02#8, 0x01#8, 0x08#8]) ∧
    got State.mem (exec (.st 1 0x0003#16) (at_ 0xfedc_ba98_7654_3210#64 0)) =
      some (cells 0 [0xba#8, 0xdc#8, 0xfe#8, 0x10#8, 0x32#8, 0x54#8, 0x76#8, 0x98#8]) := by decide

theorem test_andi :
    [(0x3#4, 0xfff8#16), (0x0#4, 0x00ff#16)].map
        (fun p => got State.acc (exec (.andi p.1 p.2) (at_ 0x1234_5678_9abc_def7#64 0))) =
    [0x1234_5678_9abc_def0#64, 0xf7#64].map some := by decide

theorem test_ori : got State.acc (exec (.ori 0xc#4 0x1234#16) (at_ 0 0)) = some 0x1234_0000_0000_0000#64 := by decide

theorem test_xori : got State.acc (exec (.xori 0x3#4 0xffff#16) (at_ 0xff 0)) = some 0xffff_ffff_ffff_ff00#64 := by
  decide

theorem test_addi :
    got State.acc (exec (.addi 0x3#4 0xfff0#16) (at_ 0x8000 0)) = some 0x7ff0#64 ∧
      got State.acc (exec (.addi 0x0#4 0x0001#16) (at_ 0xffff_ffff_ffff_ffff#64 0)) = some 0#64 := by decide

/-! ## The actions of `ext` -/

theorem test_fences :
    got State.pc (exec (.extDataFence 0xff#8) State.reset) = some 0x1001#64 ∧
      got State.pc (exec .extInstructionFence State.reset) = some 0x1001#64 := by decide

/-- R140: the write is held, though a later read of the reserved register may return any value. -/
theorem test_moveToAur : got (fun t => t.aur[3]) (exec (.extMoveToAur 3) (at_ 6 0)) = some 6#64 := by decide

/-- R139, log entry 16: a register that `INT_SAVE` defines reads as it was written. -/
theorem test_moveFromAur :
    got State.acc (exec (.extMoveFromAur 3)
      ({ State.reset with params := { Config.launch with intSave := [(.pc, .aur 3)] } }.setAur 3 8)) = some 8#64 := by
  decide

/-- V10 for the addition; R141 to R143 by hand for the others: memory holds 3, the accumulator 5. -/
theorem test_atomics :
    [Instr.extAtomicAnd 5, .extAtomicOr 5, .extAtomicXor 5, .extAtomicAdd 5].map
        (fun i => got (fun t => (t.acc, t.mem)) (exec i (((at_ 5 0).setGpr 5 0x100).setMem [(0x100, 0x03#8)]))) =
    [0x01#8, 0x07#8, 0x06#8, 0x08#8].map (fun b => some (3#64, [(0x100, b)])) := by decide

/-- R145: load-link of address `103` reserves the block at `100`. -/
theorem test_loadLink :
    got (fun t => (t.acc, t.reservation))
        (exec (.extLoadLink 5) ((State.reset.setGpr 5 0x103).setMem [(0x103, 0x09#8)])) =
      some (9#64, some 0x100#64) := by decide

/-- R146: a store-conditional with and without the reservation. -/
theorem test_storeConditional :
    got (fun t => (t.acc, t.reservation, t.mem))
        (exec (.extStoreConditional 5) (((at_ 9 0).setGpr 5 0x103).setReservation (some 0x100))) =
      some (0#64, none, [(0x103, 0x09#8)]) ∧
    got (fun t => (t.acc, t.reservation, t.mem))
        (exec (.extStoreConditional 5) (((at_ 9 0).setGpr 5 0x108).setReservation (some 0x100))) =
      some (0xffff_ffff_ffff_ffff#64, none, []) := by decide

/-- R147, S11: the system call enters through entry 3 of the table. -/
theorem test_systemCall :
    got (fun t => (t.pc, t.sfr)) (exec (.extSystemCall 0x2a#32) tabled) = some (0x2001#64, 5#64) := by decide

/-- R91, R191: an interrupt wakes the halted processor through the table. -/
theorem test_interrupt :
    got (fun t => (t.pc, t.sfr, t.halted)) (step ((tabled.setHalted true).setIrq [3])) =
      some (0x2001#64, 5#64, false) := by decide

/-- The two levels, whatever the place of the supervisor bit. -/
theorem reset_supervisor : State.reset.supervisor = true := State.supervisor_of_ones _ rfl

theorem user_not_supervisor : user.supervisor = false := State.supervisor_of_zero _ rfl

/-- R133: at user level every supervisor-level action traps. -/
theorem test_hartId_user : exec .extHartId user = .fault (.trapped (.extPriv 0#64) 0x1000#64) := by
  simp only [exec, execExtHartId, State.gate, user_not_supervisor]
  rfl

/-- A supervisor-level action at the level that may run it. -/
theorem gate_reset (s : State) (n : ExtNumber) (r : Result) (hi : s.implements n = true)
    (hs : s.sfr = BitVec.allOnes 64) : s.gate n r = r := by
  simp [State.gate, hi, s.supervisor_of_ones hs]

theorem test_hartId : got State.acc (exec .extHartId State.reset) = some Config.hartId := by
  simp only [exec, execExtHartId]
  rw [gate_reset _ _ _ (by decide) rfl]
  rfl

/-- V10, R26: `asr1` keeps the page of `0004_5abc` and reads back as `0004_5000`. -/
theorem test_moveToAsr :
    got (fun t => t.asrValue 1) (exec (.extMoveToAsr 1) (at_ 0x45abc 0)) = some 0x45000#64 := by
  simp only [exec, execExtMoveToAsr]
  rw [gate_reset _ _ _ (by decide) rfl]
  decide

theorem test_moveFromAsr : got State.acc (exec (.extMoveFromAsr 1) (State.reset.setItr 0x45#52)) = some 0x45000#64 := by
  simp only [exec, execExtMoveFromAsr]
  rw [gate_reset _ _ _ (by decide) rfl]
  decide

/-- R154, R153: a TLB set of page `15`, in set 5 with tag 1, and the look-up of its entry. -/
theorem test_tlbSet :
    got (fun t => (t.tlb[5], t.tlbFind 0x15fff#64)) (exec (.extTlbSet 1) ((at_ 0x45844 0).setGpr 1 0x15008)) =
      some ([{ tag := 1#48, entry := 0x45844#64 }], some 0x45844#64) := by
  simp only [exec, execExtTlbSet]
  rw [gate_reset _ _ _ (by decide) rfl]
  decide

theorem test_tlbGet :
    [0x15008#64, 0x16008#64].map (fun a => got State.acc (exec (.extTlbGet 1)
      (({ paged with sfr := BitVec.allOnes 64 }).setGpr 1 a))) = [some 0x45844#64, some 0#64] := by
  simp only [List.map, exec, execExtTlbGet]
  rw [gate_reset _ _ _ (by decide) rfl, gate_reset _ _ _ (by decide) rfl]
  decide

theorem test_tlbClear :
    [0x15008#64, 0x25008#64].map (fun a => got (fun t => t.tlb[5].length) (exec (.extTlbClear 1)
      (({ paged with sfr := BitVec.allOnes 64 }).setGpr 1 a))) = [some 0, some 1] := by
  simp only [List.map, exec, execExtTlbClear]
  rw [gate_reset _ _ _ (by decide) rfl, gate_reset _ _ _ (by decide) rfl]
  decide

theorem test_tlbClearAll :
    got (fun t => t.tlb[5]) (exec .extTlbClearAll { paged with sfr := BitVec.allOnes 64 }) = some [] := by
  simp only [exec, execExtTlbClearAll]
  rw [gate_reset _ _ _ (by decide) rfl]
  decide

/-- R155: an implemented number, and one that names no action. -/
theorem test_checkExtension :
    [ExtNumber.four 0x7fffffff#32, .two 0x0001#16].map
        (fun n => got State.acc (exec (.extCheckExtension n) State.reset)) =
      [some 0xffff_ffff_ffff_ffff#64, some 0#64] := by
  simp only [List.map, exec, execExtCheckExtension]
  rw [gate_reset _ _ _ (by decide) rfl, gate_reset _ _ _ (by decide) rfl]
  decide

/-- R55, R56, V10: entry `45844` may be read by a user program and not written. -/
theorem test_translate :
    paged.translate .read .user 0x15123#64 = .ok 0x45123#64 ∧
      paged.translate .write .user 0x15123#64 = .error (.trap (.protection 0x15123#64)) := ⟨rfl, rfl⟩

/-! ## The calling convention (R175) -/

theorem test_argumentSlots :
    argumentSlots false [8, 32] = [[.register 0], [.register 1]] ∧
      argumentSlots false [128, 64] = [[.register 0, .register 1], [.register 2]] ∧
      argumentSlots false [64, 64, 64, 64, 64] =
        [[.memory 0x00], [.memory 0x08], [.memory 0x10], [.memory 0x18], [.memory 0x20]] ∧
      returnSlots [64, 40] = [[.register 4], [.register 5]] := by decide

/-- Log entry 44: an argument of no bits takes a slot. -/
theorem test_emptyArgument : argumentSlots false [0, 8] = [[.register 0], [.register 1]] := by decide

/-! ## The hypotheses of the obligations can be met -/

/-- A state with two TLB lines, a reservation and the load `a1 00 00` at `pc`. -/
def busy : State :=
  { State.reset with
    tlb := (Vector.replicate 16 []).set 5 [{ tag := 1#48, entry := 0x45844#64 }, { tag := 2#48, entry := 0#64 }]
    reservation := some 0x100#64
    mem := [(0x1000, 0xa1#8)] }

/-- A state with one way in each set of the TLB, whose set 5 is full. -/
def oneWay : State :=
  { State.reset with
    params := { Config.launch with tlbWays := 1 }
    tlb := (Vector.replicate 16 []).set 5 [{ tag := 1#48, entry := 0x45844#64 }] }

/-- A machine whose only memory is the eight bytes at `1000`, with `pc` and the contents of memory. -/
def small (pc : Word) (mem : List Host.Cell) : State :=
  { State.reset with params := { Config.launch with memMap := [{ first := 0x200, count := 1 }] }, pc := pc, mem := mem }

theorem witness_DecodeOfEncodeIsTheInstruction :
    (Instr.addi 0xf#4 0xffff#16).wellFormed = true ∧ (Instr.addi 0xf#4 0xffff#16).actionNumber = none := by decide

theorem witness_FirstByteDecidesLength :
    (0x7f#8 : Byte).toNat ≤ 0x7f ∧ 0x80 ≤ (0x80#8 : Byte).toNat ∧ [0xff#8].length < 2 := by decide

theorem witness_ActionOfItsWordIsTheAction :
    (Instr.extCheckExtension (.four 0x7f000000#32)).wellFormed = true ∧
      encodeAction (.extCheckExtension (.four 0x7f000000#32)) = some 0xffff_ffff_7f00_0000#64 := by decide

theorem witness_ActionBearsTheNumberOfItsWord :
    decodeAction 0x807f_0000_0000_0000#64 = .ok (.extTlbSet 15) ∧
      decodeAction 0x7fff_ffff_0000_0000#64 = .ok (.extSystemCall 0) := ⟨rfl, rfl⟩

theorem witness_UnnamedActionBitsAreIgnored :
    ((0x0011_0000_0000_0000#64 : Word).extractLsb' 48 16 = (0x0011_ffff_ffff_ffff#64 : Word).extractLsb' 48 16 ∧
      (0x0011_0000_0000_0000#64 : Word).extractLsb' 48 16 ≠ 0x0010#16 ∧
      ExtNumber.ofWord 0x0011_0000_0000_0000#64 = .two 0x0011#16) ∧
    ((0x0010_a500_0000_0000#64 : Word).extractLsb' 48 16 = (0x0010_a5ff_ffff_ffff#64 : Word).extractLsb' 48 16 ∧
      (0x0010_a500_0000_0000#64 : Word).extractLsb' 40 24 = (0x0010_a5ff_ffff_ffff#64 : Word).extractLsb' 40 24 ∧
      ExtNumber.ofWord 0x0010_a500_0000_0000#64 = .two 0x0010#16) := by decide

theorem witness_XimmChunks : 3 < 4 ∧ 0 < 4 := by decide

theorem witness_CondHoldsBySign :
    (0#64 : Word).toInt = 0 ∧ 0 < (1#64 : Word).toInt ∧ (0x8000_0000_0000_0000#64 : Word).toInt = -2 ^ 63 ∧
      -2 ^ 63 < (0x8000_0000_0000_0001#64 : Word).toInt ∧ (0x8000_0000_0000_0001#64 : Word).toInt < 0 := by decide

theorem witness_RotatedReadBytes : 7 < 8 ∧ 0 < 8 := by decide

theorem witness_RotatedWriteThenRead :
    Memory.wf [(0x107, 0x01#8)] ∧ 0x108 / 8 ≠ (0x107#64 : Word).toNat / 8 ∧
      (0x100#64 : Word).toNat / 8 = (0x107#64 : Word).toNat / 8 := by decide

theorem witness_OnlyMtsrWritesSr : Instr.nop ≠ .mtsr ∧ ∃ t, exec .nop State.reset = .next t := ⟨by decide, _, rfl⟩

theorem witness_GeneralRegisterMoves : (∀ x, Instr.nop ≠ .mt x) ∧ ∃ t, exec .nop State.reset = .next t :=
  ⟨by simp, _, rfl⟩

theorem witness_TestWritesTheTruthValue : condHolds 0x1#4 (0#64) = true ∧ condHolds 0x1#4 (1#64) = false := by decide

theorem witness_RelativeTransfers : condHolds 0xf#4 (0#64) = true ∧ condHolds 0x0#4 (0#64) = false := by decide

theorem witness_LinkRegisterWriters : ∃ t, exec .retl State.reset = .next t := ⟨_, rfl⟩

theorem witness_AccumulatorKept : (∃ t, exec .null tabled = .next t) ∧ ∃ t, exec (.mt 3) State.reset = .next t :=
  ⟨⟨_, rfl⟩, _, rfl⟩

theorem witness_SequentialInstructionsAdvance :
    (∃ t, exec (.addi 0#4 1#16) State.reset = .next t) ∧ ∃ t, exec .trace tabled = .next t := ⟨⟨_, rfl⟩, _, rfl⟩

theorem witness_LoadReadsTheRotatedBlock :
    busy.locate .read (busy.effAddr 1 0xfff#16) = .ok 0xfff#64 ∧ busy.reservation ≠ none := by decide

theorem witness_StoreWritesTheRotatedBlock :
    Memory.wf busy.mem ∧ busy.locate .write (busy.effAddr 1 0x1001#16) = .ok 0x1001#64 := by decide

/-- A state with an address in `r1` and, for `ext`, the atomic addition of `r1` in `sr`. -/
def aimed (s : State) (va : Word) : State :=
  ((s.setGpr 1 va).setSr 0x0071_0000_0000_0000#64).setReservation (some (blockOf va))

/-- Every form whose first access to memory is at the address in `r1`. -/
abbrev Aims (s : State) (va : Word) : Prop :=
  (FirstAccess s (.ld 1 0#16) .read va ∧ FirstAccess s (.st 1 0#16) .write va) ∧
    (FirstAccess s (.extAtomicAnd 1) .read va ∧ FirstAccess s (.extAtomicOr 1) .read va ∧
      FirstAccess s (.extAtomicXor 1) .read va ∧ FirstAccess s (.extAtomicAdd 1) .read va) ∧
    FirstAccess s (.extLoadLink 1) .read va ∧ FirstAccess s (.extStoreConditional 1) .write va ∧
    FirstAccess s .ext .read va

theorem aims (s : State) (va : Word) (hr : s.readGpr 1 = va) (hb : s.reservation = some (blockOf va))
    (hs : decodeAction s.sr = .ok (.extAtomicAdd 1))
    (hi : [0x004#12, 0x005#12, 0x006#12, 0x007#12, 0x00a#12, 0x00b#12].all (fun n => s.implements (digitNumber n 1)) =
      true) : Aims s va := by
  subst hr
  have he : s.effAddr 1 0#16 = s.readGpr 1 := BitVec.add_zero _
  have hl : FirstAccess s (.ld 1 0#16) .read (s.effAddr 1 0#16) := .load 1 0#16
  have hst : FirstAccess s (.st 1 0#16) .write (s.effAddr 1 0#16) := .store 1 0#16
  rw [he] at hl hst
  simp only [List.all_cons, List.all_nil, Bool.and_true, Bool.and_eq_true] at hi
  obtain ⟨h4, h5, h6, h7, ha, hc⟩ := hi
  exact ⟨⟨hl, hst⟩, ⟨.atomic 1 _ _ .and h4, .atomic 1 _ _ .or h5, .atomic 1 _ _ .xor h6, .atomic 1 _ _ .add h7⟩,
    .loadLink 1 ha, .storeConditional 1 hc hb, .performed _ _ _ hs (.atomic 1 _ _ .add h7)⟩

/-- The block at its last byte, the first address past it, and the two addresses where the I/O region begins. -/
theorem witness_UntranslatedAccessNeedsABackedBlock :
    ((∀ k, (small 0 []).translated k (small 0 []).privilege = false) ∧ (0x1007#64 : Word).toNat < 0xffff_0000_0000_0000 ∧
      (small 0 []).backed 0x1007#64 = true) ∧
    ((∀ k, (aimed (small 0 []) 0x1008#64).translated k (aimed (small 0 []) 0x1008#64).privilege = false) ∧
      (aimed (small 0 []) 0x1008#64).backed 0x1008#64 = false ∧ Aims (aimed (small 0 []) 0x1008#64) 0x1008#64) ∧
    ((0xfffe_ffff_ffff_ffff#64 : Word).toNat < 0xffff_0000_0000_0000 ∧
      State.reset.backed 0xfffe_ffff_ffff_ffff#64 = true) ∧
    ((aimed State.reset 0xffff_0000_0000_0000#64).params.profile = .extended ∧
      (∀ k, (aimed State.reset 0xffff_0000_0000_0000#64).translated k
        (aimed State.reset 0xffff_0000_0000_0000#64).privilege = false) ∧
      Aims (aimed State.reset 0xffff_0000_0000_0000#64) 0xffff_0000_0000_0000#64) :=
  ⟨⟨fun k => by cases k <;> rfl, by decide⟩,
    ⟨fun k => by cases k <;> rfl, by decide, aims _ _ rfl rfl rfl (by decide)⟩, by decide,
    ⟨rfl, fun k => by cases k <;> rfl, aims _ _ rfl rfl rfl (by decide)⟩⟩

/-- R141, R146: an atomic action and a store-conditional past the last block stop there. -/
theorem test_atomic_unmapped :
    exec (.extAtomicAdd 1) (aimed (small 0 []) 0x1008#64) = .fault (.memUnmapped 0 0x1008#64) ∧
      exec (.extStoreConditional 1) (aimed (small 0 []) 0x1008#64) = .fault (.memUnmapped 0 0x1008#64) := ⟨rfl, rfl⟩

theorem paged_privilege : paged.privilege = .user := by
  rw [State.privilege, State.supervisor_of_zero paged rfl]
  rfl

/-- The state `paged` with another memory map, another entry in its TLB line and the address `15fff` in `r1`. -/
def pagedWith (memMap : List Region) (entry : Word) : State :=
  aimed { paged with
    params := { paged.params with memMap := memMap }
    tlb := (Vector.replicate 16 []).set 5 [{ tag := 1#48, entry := entry }] } 0x15fff#64

/-- At user level: a missing entry, an entry of another form, a forbidden write, and a permitted read of backed memory,
of memory that is not backed, and of the I/O region. -/
theorem witness_TranslatedAccessFollowsTheTlbEntry :
    (∀ m e, (pagedWith m e).supervisor = false ∧ (∀ k, (pagedWith m e).translated k .user = true) ∧
      (pagedWith m e).tlbFind 0x15fff#64 = some e ∧ Aims (pagedWith m e) 0x15fff#64) ∧
    (aimed paged 0x25fff#64).tlbFind 0x25fff#64 = none ∧ Aims (aimed paged 0x25fff#64) 0x25fff#64 ∧
    [(0x45044#64 : Word), 0x458c4#64, 0x4584c#64].all
      (fun e => e.getLsbD 11 == false || e.getLsbD 7 == true || e.getLsbD 3 == true) = true ∧
    [(0x45844#64 : Word), 0xffff_0000_0000_0844#64].all (fun e =>
      e.getLsbD 11 && !e.getLsbD 7 && !e.getLsbD 3 && e.getLsbD 2 && !e.getLsbD 1) = true ∧
    (0x45fff#64 : Word).toNat = (0x45844#64 : Word).toNat / 4096 * 4096 + (0x15fff#64 : Word).toNat % 4096 ∧
    (pagedWith Config.launch.memMap 0x45844#64).backed 0x45fff#64 = true ∧
    (pagedWith [] 0x45844#64).backed 0x45fff#64 = false ∧
    (0xffff_0000_0000_0fff#64 : Word).toNat =
      (0xffff_0000_0000_0844#64 : Word).toNat / 4096 * 4096 + (0x15fff#64 : Word).toNat % 4096 :=
  ⟨fun m e => ⟨State.supervisor_of_zero _ rfl, fun k => by cases k <;> rfl, rfl,
      aims _ _ rfl rfl (show decodeAction 0x0071_0000_0000_0000#64 = _ from rfl) rfl⟩, rfl,
    aims _ _ rfl rfl rfl (by decide), by decide⟩

theorem witness_MemoryWriters :
    (NotAStore (.ld 1 0#16) ∧ ∃ t, exec (.ld 1 0#16) busy = .next t) ∧
      (NotAStore .ext ∧ (∀ j, decodeAction (at_ 0 0x0011_0000_0000_0000#64).sr = .ok j → NotAStore j) ∧
        ∃ t, exec .ext (at_ 0 0x0011_0000_0000_0000#64) = .next t) ∧
      ((∀ j, decodeAction tabled.sr = .ok j → NotAStore j) ∧ ∃ t, exec .ext tabled = .next t) := by
  refine ⟨⟨by simp [NotAStore], _, rfl⟩, ⟨by simp [NotAStore], fun j h => ?_, _, rfl⟩, fun j h => ?_, _, rfl⟩
  · have e : decodeAction (at_ 0 0x0011_0000_0000_0000#64).sr = .ok .extInstructionFence := rfl
    rw [e] at h
    cases h
    simp [NotAStore]
  · have e : decodeAction tabled.sr = .error (.invalidAction 0) := rfl
    rw [e] at h
    cases h

theorem witness_HaltCompletesAndStopsTheProcessor :
    (State.reset.setHalted true).halted = true ∧ (State.reset.setHalted true).received = none := ⟨rfl, rfl⟩

theorem witness_BaseTrapsEndTheRun : base.params.profile = .base := rfl

theorem witness_TableEntryIsTwoAlignedWords :
    tabled.params.translation.table = none ∧ tabled.inIoRegion (BitVec.ofNat 64 (tabled.itr.toNat * 4096)) = false ∧
      tabled.backed (BitVec.ofNat 64 (tabled.itr.toNat * 4096 + 16 * 255)) = true ∧
      tabled.backed (BitVec.ofNat 64 (tabled.itr.toNat * 4096 + 16 * 255 + 8)) = true := by decide

theorem witness_InterruptEntersThroughTheTable :
    tabled.params.profile = .extended ∧ (tabled.setIrq [3, 4]).irq = 3 :: [4] ∧ tabled.params.intSave = [] ∧
      (tabled.setIrq [3, 4]).tableEntry 3 = .ok (0x2001#64, 5#64) ∧ saving.params.profile = .extended ∧
      (saving.setIrq [3, 4]).irq = 3 :: [4] ∧ saving.params.intSave ≠ [] ∧
      (saving.setIrq [3, 4]).tableEntry 3 = .ok (0x2001#64, 5#64) :=
  ⟨rfl, rfl, rfl, rfl, rfl, rfl, by simp [saving], rfl⟩

/-- A state in which every event has number 3 and every access and fetch is translated, at user level. -/
def guarded : State :=
  { tabled with
    params := { tabled.params with translation := paged.params.translation }
    sfr := 0
    pc := 0x15000#64
    gpr := (Vector.replicate 16 0).set 1 0x15000#64
    tlb := paged.tlb }

theorem guarded_privilege : guarded.privilege = .user := by
  rw [State.privilege, State.supervisor_of_zero guarded rfl]
  rfl

theorem guarded_locate :
    guarded.locate .write 0x15000#64 = .error (.trap (.protection 0x15000#64)) ∧
      guarded.locate .execute 0x15000#64 = .error (.trap (.protection 0x15000#64)) := by
  unfold State.locate
  rw [guarded_privilege]
  exact ⟨rfl, rfl⟩

theorem guarded_fetch : guarded.fetchInstr = .error (.trap (.protection 0x15000#64)) := by
  simp only [State.fetchInstr, State.fetchByte]
  rw [show guarded.pc = 0x15000#64 from rfl, guarded_locate.2]

/-- The events of an instruction and of a fetch, each in a state that gives it a table entry. -/
theorem witness_TrapsEnterThroughTheTable :
    (RaisesEvent tabled .null .nullTrap ∧ RaisesEvent tabled .trace .traceTrap ∧
      RaisesEvent tabled (.extSystemCall 0) (.syscall tabled.sr) ∧ RaisesEvent tabled .ext (.extInvalid tabled.sr) ∧
      RaisesEvent guarded .extHartId (.extPriv guarded.sr) ∧
      RaisesEvent guarded (.st 1 0#16) (.protection 0x15000#64)) ∧
    ([TrapCause.nullTrap, .traceTrap, .syscall 0, .extInvalid 0, .extPriv 0, .protection 0x15000#64].all
      (fun c => tabled.trapNumber c == some 3 && guarded.trapNumber c == some 3)) = true ∧
    tabled.tableEntry 3 = .ok (0x2001#64, 5#64) ∧ guarded.tableEntry 3 = .ok (0x2001#64, 5#64) ∧
    guarded.received = none ∧ guarded.halted = false ∧
    guarded.fetchInstr = .error (.trap (.protection 0x15000#64)) :=
  ⟨⟨.null, .trace, .systemCall 0 (by decide), .unassigned (.invalidAction 0) rfl,
      .privileged .extHartId (.two 0x8010#16) rfl (by decide) (by decide) (State.supervisor_of_zero guarded rfl),
      .store 1 0#16 0x15000#64 guarded_locate.1⟩,
    by decide, rfl, rfl, rfl, rfl, guarded_fetch⟩

theorem witness_EntrySavesWhatIntSaveNames :
    saving.tableEntry 3 = .ok (0x2001#64, 5#64) ∧
      (saving.params.intSave = [(.acc, .aur 2)] ++ (.pc, .asr 1) :: [(.lr, .aur 2)] ∧
        (∀ q ∈ [(SaveSource.lr, SaveTarget.aur 2)], q.2 ≠ .asr 1) ∧ SaveTarget.asr 1 ≠ .asr 0) ∧
      (saving.params.intSave = [(.acc, .aur 2), (.pc, .asr 1)] ++ (.lr, .aur 2) :: [] ∧ SaveTarget.aur 2 ≠ .asr 0) ∧
      (∀ q ∈ saving.params.intSave, q.2 ≠ .aur 3) :=
  ⟨rfl, ⟨rfl, by simp, by decide⟩, ⟨rfl, by decide⟩, by simp [saving]⟩

/-- R192: the values saved are those before the entry, `pc` `1000` into `asr1` and `lr` into `aur2`. -/
theorem test_saves :
    got (fun t => (t.asrValue 1, t.targetValue (.aur 2), t.pc)) (step ((saving.setLr 7).setIrq [3])) =
      some (0x1000#64, 7#64, 0x2001#64) := by decide

theorem witness_ExtPerformsTheActionOfSr :
    decodeAction (at_ 0 0x0011_0000_0000_0000#64).sr = .ok .extInstructionFence ∧
      decodeAction State.reset.sr = .error (.invalidAction 0) := ⟨rfl, rfl⟩

theorem witness_ActionsAreCheckedFirst :
    Instr.extHartId.actionNumber = some (.two 0x8010#16) ∧ base.implements (.two 0x8010#16) = false ∧
      user.implements (.two 0x8010#16) = true ∧ (ExtNumber.two 0x8010#16).supervisorLevel = true ∧
      user.supervisor = false := ⟨rfl, rfl, by decide, by decide, user_not_supervisor⟩

theorem witness_FencesOnlyAdvance :
    State.reset.implements (.two 0x0010#16) = true ∧ State.reset.implements (.two 0x0011#16) = true ∧
      (at_ 0 0x0010_ff00_0000_0000#64).sr.extractLsb' 48 16 = 0x0010#16 ∧
      (at_ 0 0x0011_ffff_ffff_ffff#64).sr.extractLsb' 48 16 = 0x0011#16 := by decide

theorem witness_AuxiliaryUserRegisterMoves :
    State.reset.implements (digitNumber 0x002#12 15) = true ∧ State.reset.implements (digitNumber 0x003#12 15) = true ∧
      State.reset.aurDefined 15 = false ∧
      ({ State.reset with params := { Config.launch with intSave := [(.pc, .aur 15)] } }).aurDefined 15 = true ∧
      ({ State.reset with params := { Config.launch with intSave := [(.pc, .aur 15)] } }).implements
        (digitNumber 0x002#12 15) = true := by decide

theorem witness_AtomicActionsFetchAndModify :
    Memory.wf busy.mem ∧
      [0x004#12, 0x005#12, 0x006#12, 0x007#12].all (fun n => busy.implements (digitNumber n 15)) = true ∧
      busy.locate .read (busy.readGpr 15) = .ok 0#64 ∧ busy.locate .write (busy.readGpr 15) = .ok 0#64 := by decide

theorem witness_LoadLinkReservesTheBlock :
    busy.implements (digitNumber 0x00a#12 0) = true ∧ busy.locate .read (busy.readGpr 0) = .ok 0#64 := by decide

theorem witness_StoreConditionalObeysTheReservation :
    Memory.wf busy.mem ∧ busy.implements (digitNumber 0x00b#12 1) = true ∧
      ((busy.setGpr 1 0x107).reservation = some (blockOf ((busy.setGpr 1 0x107).readGpr 1)) ∧
        (busy.setGpr 1 0x107).locate .write ((busy.setGpr 1 0x107).readGpr 1) = .ok 0x107#64) ∧
      busy.reservation ≠ some (blockOf (busy.readGpr 1)) := by decide

theorem witness_OneStoreConditionalPerLoadLink :
    State.reset.implements (digitNumber 0x00a#12 1) = true ∧ State.reset.implements (digitNumber 0x00b#12 1) = true ∧
      (∃ v, State.reset.load (State.reset.readGpr 1) = .ok v) ∧
      ∃ t, exec (.extLoadLink 1) State.reset = .next t ∧ (∃ pa, t.locate .write (t.readGpr 1) = .ok pa) ∧
        ∃ u, exec (.extStoreConditional 1) t = .next u :=
  ⟨by decide, by decide, ⟨_, rfl⟩, _, rfl, ⟨_, rfl⟩, _, rfl⟩

theorem witness_HartIdGoesToTheAccumulator :
    State.reset.implements (.two 0x8010#16) = true ∧ State.reset.supervisor = true :=
  ⟨by decide, reset_supervisor⟩

theorem witness_MoveFromAuxiliarySupervisorRegister :
    (∀ x : Fin 16, State.reset.implements (digitNumber 0x802#12 x) = true) ∧ State.reset.supervisor = true ∧
      State.reset.asrDefined 3 = false ∧
      ({ State.reset with params := { Config.launch with intSave := [(.pc, .asr 3)] } }).asrDefined 3 = true ∧
      ({ State.reset with params := { Config.launch with intSave := [(.pc, .asr 3)] } }).implements
        (digitNumber 0x802#12 3) = true :=
  ⟨by decide, reset_supervisor, by decide⟩

theorem witness_MoveToAuxiliarySupervisorRegister :
    (∀ x : Fin 16, State.reset.implements (digitNumber 0x803#12 x) = true) ∧ State.reset.supervisor = true :=
  ⟨by decide, reset_supervisor⟩

theorem witness_TlbGetAndClears :
    State.reset.supervisor = true ∧ State.reset.implements (digitNumber 0x806#12 15) = true ∧
      State.reset.implements (.two 0x8040#16) = true ∧ State.reset.implements (digitNumber 0x805#12 15) = true ∧
      (0x15fff#64 : Word).toNat / 4096 = (0x15000#64 : Word).toNat / 4096 ∧
      (0x16000#64 : Word).toNat / 4096 ≠ (0x15000#64 : Word).toNat / 4096 :=
  ⟨reset_supervisor, by decide⟩

theorem witness_TlbSetMapsThePage :
    oneWay.supervisor = true ∧ oneWay.implements (digitNumber 0x807#12 1) = true ∧ 1 ≤ oneWay.params.tlbWays ∧
      (oneWay.tlbFind 0x15000#64).isSome = true ∧ (oneWay.tlbLines 0x16000#64).length < oneWay.params.tlbWays ∧
      tlbSetOf 0x16000#64 ≠ tlbSetOf 0x15000#64 ∧ (0x25000#64 : Word).toNat / 4096 ≠ (0x15000#64 : Word).toNat / 4096 :=
  ⟨State.supervisor_of_ones _ rfl, by decide⟩

theorem witness_CheckExtensionTellsWhatIsImplemented :
    State.reset.implements (.four 0xffffffff#32) = true ∧ State.reset.supervisor = true ∧
      State.reset.implements (.two 0x00bf#16) = true ∧ State.reset.implements (.two 0x00c0#16) = false :=
  ⟨by decide, reset_supervisor, by decide⟩

theorem witness_StepRunsTheDecodedInstruction :
    busy.received = none ∧ busy.halted = false ∧ decode [0xa1#8, 0x00#8, 0x00#8] = .ok (.ld 1 0#16, []) ∧
      busy.fetchByte busy.pc = .ok 0xa1#8 ∧ busy.fetchByte (busy.pc + 1) = .ok 0x00#8 ∧
      busy.fetchByte (busy.pc + 2) = .ok 0x00#8 := ⟨rfl, rfl, rfl, rfl, rfl, rfl⟩

/-- The hypotheses common to the clauses of the next theorem. -/
abbrev fetchable (s : State) : Prop :=
  s.received.isNone ∧ s.halted = false ∧ s.translated .execute s.privilege = false ∧ s.inIoRegion s.pc = false ∧
    s.inIoRegion (s.pc + 1) = false ∧ s.inIoRegion (s.pc + 2) = false

/-- In the machine with eight bytes: `pc` just past them, a short instruction at the last one, and a long instruction
whose second and whose third byte lie past them. -/
theorem witness_FetchNamesTheMissingByte :
    (fetchable (small 0x1008 []) ∧ (small 0x1008 []).backed 0x1008#64 = false) ∧
    (fetchable (small 0x1007 [(0x1007, 0x7f#8)]) ∧ (small 0x1007 [(0x1007, 0x7f#8)]).backed 0x1007#64 = true ∧
      ((small 0x1007 [(0x1007, 0x7f#8)]).memByte 0x1007#64).toNat < 0x80) ∧
    (fetchable (small 0x1007 [(0x1007, 0x80#8)]) ∧ (small 0x1007 [(0x1007, 0x80#8)]).backed 0x1007#64 = true ∧
      0x80 ≤ ((small 0x1007 [(0x1007, 0x80#8)]).memByte 0x1007#64).toNat ∧
      (small 0x1007 [(0x1007, 0x80#8)]).backed (0x1007#64 + 1) = false) ∧
    (fetchable (small 0x1006 [(0x1006, 0x80#8)]) ∧ (small 0x1006 [(0x1006, 0x80#8)]).backed 0x1006#64 = true ∧
      0x80 ≤ ((small 0x1006 [(0x1006, 0x80#8)]).memByte 0x1006#64).toNat ∧
      (small 0x1006 [(0x1006, 0x80#8)]).backed (0x1006#64 + 1) = true ∧
      (small 0x1006 [(0x1006, 0x80#8)]).backed (0x1006#64 + 2) = false) := by decide

theorem witness_EveryStepKeepsTheFormOfTheState : busy.Formed ∧ ∃ t, step busy = .next t := ⟨by decide, _, rfl⟩

theorem witness_NoStepChangesTheParameters : ∃ t, step busy = .next t := ⟨_, rfl⟩

theorem witness_BaseStepOutcomes : base.params.profile = .base ∧ step base = .fault (.trapped .nullTrap 0x1000#64) :=
  ⟨rfl, rfl⟩

theorem witness_BaseStepLeavesExtendedState :
    base.params.profile = .base ∧ base.reservation = none ∧
      ∃ t, step (base.withFetchWord 24 0x0007b1) = .next t := ⟨rfl, rfl, _, rfl⟩

theorem witness_UserLevelCannotWriteTheSupervisorFlags :
    user.supervisor = false ∧ ∃ t, exec (.extMoveToAur 0) user = .next t := ⟨user_not_supervisor, _, rfl⟩

theorem witness_TrapsNameTheirInstruction :
    step (State.reset.withFetchWord 8 0x01) = .fault (.trapped .traceTrap 0x1000#64) := rfl

end Sys2Proof.Tests
end

section
/-! SUPPORT. What a step can do when it gives a next state, and what it can do in BASE; with them the statements of
`00_scope.md`: the parameters, the state of the EXTENDED material, and the data address. -/
namespace Sys2Proof.Machine

/-! ## The data address -/

/-- R72: SIMM has the signed value of the immediate. -/
theorem simm_eq_ofInt (imm : Imm) : simm imm = BitVec.ofInt 64 imm.toInt := rfl

/-- Settles O10: a word is its own signed value modulo `2^64`, and addition commutes with that reduction. -/
theorem effectiveAddressIsBasePlusSignedImmediate : Obligations.EffectiveAddressIsBasePlusSignedImmediate := by
  intro s x imm
  calc s.effAddr x imm = s.readGpr x + simm imm := rfl
    _ = BitVec.ofInt 64 (s.readGpr x).toInt + BitVec.ofInt 64 imm.toInt := by rw [BitVec.ofInt_toInt, simm_eq_ofInt]
    _ = BitVec.ofInt 64 ((s.readGpr x).toInt + imm.toInt) := (BitVec.ofInt_add _ _).symm

/-! ## The parts of a step -/

/-- R191: an interrupt that is received is the first pending one, and no longer pending. -/
theorem State.received_eq_some (s t : State) (n : BitVec 8) (h : s.received = some (n, t)) :
    s.params.profile = .extended ∧ ∃ rest, s.irq = n :: rest ∧ t = s.setIrq rest := by
  unfold State.received at h
  split at h
  · cases h
  · cases h
  · next rest hp hq =>
    cases h
    exact ⟨hp, rest, hq, rfl⟩

/-- All that an instruction can do when it gives a next state: it takes an exception, or it makes its own update, which
for `ext` is that of the action `sr` names. -/
theorem exec_next_cases (i : Instr) (s t : State) (h : exec i s = .next t) :
    (∃ c, s.raise c = .next t) ∨ ∃ j, (j = i ∨ i = .ext ∧ decodeAction s.sr = .ok j) ∧ ownUpdate s t j := by
  by_cases hi : i = .ext
  · subst hi
    rcases exec_ext_next s t h with hc | ⟨j, hw, hj, hx⟩
    · exact .inl hc
    · exact (exec_next j s t hj hx).imp_right fun hu => ⟨j, .inr ⟨rfl, hw⟩, hu⟩
  · exact (exec_next i s t hi h).imp_right fun hu => ⟨i, .inl rfl, hu⟩

/-- All that a step can do when it gives a next state: it enters the table for an interrupt; or, not halted and with no
interrupt to take, it takes the exception that the fetch met or executes the instruction that was fetched. -/
theorem step_next_cases (s t : State) (h : step s = .next t) :
    (∃ n r, s.received = some (n, r) ∧ r.enter n = .next t) ∨
      (s.received = none ∧ s.halted = false ∧
        ((∃ c, s.fetchInstr = .error (.trap c) ∧ s.raise c = .next t) ∨
          ∃ i, s.fetchInstr = .ok i ∧ exec i s = .next t)) := by
  unfold step at h
  split at h
  · next n r hr => exact .inl ⟨n, r, hr, h⟩
  · next hr =>
    split at h
    · cases h
    · next hh =>
      refine .inr ⟨hr, by simpa using hh, ?_⟩
      split at h
      · next e he =>
        obtain ⟨c, rfl, hc⟩ := s.stop_next t e h
        exact .inl ⟨c, he, hc⟩
      · next i hi => exact .inr ⟨i, hi, h⟩

/-! ## The parameters -/

@[simp] theorem State.setAsr_params (s : State) (x : Fin 16) (v : Word) : (s.setAsr x v).params = s.params :=
  s.setAsr_keeps State.params (fun _ _ => rfl) (fun _ _ => rfl) (fun _ _ => rfl) (fun _ _ _ => rfl) x v

@[simp] theorem State.saveInto_params (s : State) (target : SaveTarget) (v : Word) :
    (s.saveInto target v).params = s.params :=
  s.saveInto_keeps State.params (fun _ _ _ => rfl) (fun _ _ => rfl) (fun _ _ => rfl) (fun _ _ => rfl)
    (fun _ _ _ => rfl) target v

@[simp] theorem State.entered_params (s : State) (newPc newSfr : Word) :
    (s.entered newPc newSfr).params = s.params := by
  simp [State.entered, State.saveContext_keeps State.params State.saveInto_params]

@[simp] theorem State.readAuxIntoAcc_params (s : State) (defined : Bool) (held : Word) :
    (s.readAuxIntoAcc defined held).params = s.params := by
  cases defined <;> rfl

@[simp] theorem State.tlbClear_params (s : State) (va : Word) : (s.tlbClear va).params = s.params := rfl

@[simp] theorem State.tlbSet_params (s : State) (va entry : Word) : (s.tlbSet va entry).params = s.params := by
  rcases s.tlbSet_cases va entry with h | ⟨_, _, h⟩ | ⟨_, _, h⟩ <;> rw [h] <;> rfl

/-- R191: entering the table leaves the parameters. -/
theorem State.enter_params (s t : State) (n : BitVec 8) (h : s.enter n = .next t) : t.params = s.params := by
  obtain ⟨newPc, newSfr, _, rfl⟩ := s.enter_next t n h
  exact s.entered_params newPc newSfr

/-- R182, R186: taking an exception leaves the parameters. -/
theorem State.raise_params (s t : State) (c : TrapCause) (h : s.raise c = .next t) : t.params = s.params :=
  State.raise_keeps State.params (fun _ _ => rfl) (fun _ => rfl) (fun _ _ => rfl) (fun _ _ => rfl) (fun _ _ _ => rfl)
    (fun _ _ => rfl) (fun _ _ => rfl) (fun _ _ => rfl) (fun _ _ _ => rfl) s t c h

/-- R2: the update of an instruction leaves the parameters. -/
theorem ownUpdate_params (s t : State) (i : Instr) (h : ownUpdate s t i) : t.params = s.params := by
  cases i with
  | null | trace | ext | extSystemCall => exact h.elim
  | halt | mfsr | mtsr | mf | mt | jumpa | calla | ret | retl | mtlr | nop | extDataFence | extInstructionFence
  | extMoveToAur | extTlbClearAll | extTlbClear | extTlbSet =>
    rw [show t = _ from h]
    simp
  | mflr | pc | test | and | or | xor | add | shl | shr | extHartId | extTlbGet | extCheckExtension
  | andi | ori | xori | addi | jump | ld | st | extLoadLink =>
    obtain ⟨_, rfl⟩ := h
    simp
  | call => rcases h with ⟨_, _, rfl⟩ | rfl <;> simp
  | extAtomicAnd | extAtomicOr | extAtomicXor | extAtomicAdd =>
    obtain ⟨_, _, _, rfl⟩ := h
    simp
  | extMoveFromAur | extMoveFromAsr =>
    obtain ⟨_, _, rfl⟩ := h
    simp
  | extMoveToAsr =>
    obtain ⟨_, rfl⟩ := h
    simp
  | extStoreConditional => rcases h with ⟨_, rfl⟩ | rfl <;> simp

/-- Settles O55: an entry, an exception and the update of an instruction each leave the parameters. -/
theorem noStepChangesTheParameters : Obligations.NoStepChangesTheParameters := by
  intro s t h
  rcases step_next_cases s t h with ⟨n, r, hr, hn⟩ | ⟨_, _, ⟨c, _, hc⟩ | ⟨i, _, hx⟩⟩
  · obtain ⟨_, rest, _, rfl⟩ := s.received_eq_some r n hr
    exact (s.setIrq rest).enter_params t n hn
  · exact s.raise_params t c hc
  · rcases exec_next_cases i s t hx with ⟨c, hc⟩ | ⟨j, _, hj⟩
    · exact s.raise_params t c hc
    · exact ownUpdate_params s t j hj

/-! ## The BASE machine -/

/-- R190: BASE has no interrupts. -/
theorem State.received_base (s : State) (hp : s.params.profile = .base) : s.received = none := by
  simp [State.received, hp]

/-- R182: no exception in BASE gives a next state. -/
theorem State.raise_base_ne_next (s t : State) (hp : s.params.profile = .base) (c : TrapCause) :
    s.raise c ≠ .next t := by
  simp [s.raise_base hp c]

/-- R92: no action is implemented in BASE. -/
theorem State.implements_base (s : State) (hp : s.params.profile = .base) (n : ExtNumber) :
    s.implements n = false := by
  simp [State.implements, hp]

/-- R92: every action makes the two checks for its own number first. -/
theorem exec_action_gated (i : Instr) (n : ExtNumber) (hn : i.actionNumber = some n) (s : State) :
    ∃ r, exec i s = s.gate n r := by
  cases i <;> cases hn <;> exact ⟨_, rfl⟩

/-- R92, R182: in BASE every action ends the run as an invalid action. -/
theorem exec_action_base (i : Instr) (n : ExtNumber) (hn : i.actionNumber = some n) (s : State)
    (hp : s.params.profile = .base) : exec i s = .fault (.trapped (.extInvalid s.sr) s.pc) := by
  obtain ⟨r, hr⟩ := exec_action_gated i n hn s
  simp [hr, State.gate, s.implements_base hp, s.raise_base hp]

/-- R22, R92: an instruction that gives a next state in BASE is no action and makes its own update. -/
theorem exec_base_next (i : Instr) (s t : State) (hp : s.params.profile = .base) (h : exec i s = .next t) :
    i.actionNumber = none ∧ ownUpdate s t i := by
  have action_stops (j : Instr) (hj : exec j s = .next t) : j.actionNumber = none := by
    cases hn : j.actionNumber with
    | none => rfl
    | some n => simp [exec_action_base j n hn s hp] at hj
  have no_raise : ¬∃ c, s.raise c = .next t := fun ⟨c, hc⟩ => s.raise_base_ne_next t hp c hc
  have not_ext : i ≠ .ext := by
    rintro rfl
    rcases exec_ext_next s t h with hc | ⟨j, hw, _, hj⟩
    · exact no_raise hc
    · exact decodeAction_isAction _ j hw (action_stops j hj)
  exact ⟨action_stops i h, (exec_next i s t not_ext h).resolve_left no_raise⟩

/-- `t` is `s` but for the state of the BASE machine that an instruction may write: the 20 registers of R13, the halted
condition and memory (R30). -/
def OnlyBaseStateWritten (s t : State) : Prop :=
  t = { s with pc := t.pc, acc := t.acc, sr := t.sr, lr := t.lr, gpr := t.gpr, halted := t.halted, mem := t.mem }

/-- R146: with no reservation held there is none to lose. -/
theorem State.mayLoseReservation_of_none (s : State) (hr : s.reservation = none) : s.mayLoseReservation = s := by
  simp [State.mayLoseReservation, hr]

/-- R13, R30: an instruction of space `opcode` other than `ext` writes no state of the EXTENDED material. -/
theorem ownUpdate_onlyBaseStateWritten (s t : State) (i : Instr) (hr : s.reservation = none)
    (hi : i.actionNumber = none) (h : ownUpdate s t i) : OnlyBaseStateWritten s t := by
  cases i with
  | null | trace | ext => exact h.elim
  | halt | mfsr | mtsr | mf | mt | jumpa | calla | ret | retl | mtlr | nop =>
    rw [show t = _ from h]
    rfl
  | mflr | pc | test | and | or | xor | add | shl | shr | andi | ori | xori | addi | jump =>
    obtain ⟨_, rfl⟩ := h
    rfl
  | call => rcases h with ⟨_, _, rfl⟩ | rfl <;> rfl
  | ld | st =>
    obtain ⟨_, rfl⟩ := h
    rw [s.mayLoseReservation_of_none hr]
    rfl
  | _ => cases hi

/-- R13, R30: a step in BASE with no reservation held writes only the state of the BASE machine. -/
theorem step_base_onlyBaseStateWritten (s t : State) (hp : s.params.profile = .base) (hr : s.reservation = none)
    (h : step s = .next t) : OnlyBaseStateWritten s t := by
  rcases step_next_cases s t h with ⟨n, r, hn, _⟩ | ⟨_, _, ⟨c, _, hc⟩ | ⟨i, _, hx⟩⟩
  · simp [s.received_base hp] at hn
  · exact absurd hc (s.raise_base_ne_next t hp c)
  · obtain ⟨hi, hu⟩ := exec_base_next i s t hp hx
    exact ownUpdate_onlyBaseStateWritten s t i hr hi hu

/-- Settles O57: what a BASE step writes is state of the BASE machine. -/
theorem baseStepLeavesExtendedState : Obligations.BaseStepLeavesExtendedState := by
  intro s t hp hr h
  rw [step_base_onlyBaseStateWritten s t hp hr h]
  exact ⟨rfl, rfl, rfl, rfl, rfl, hr, rfl, rfl, rfl⟩

end Sys2Proof.Machine
end

section
/-! SUPPORT. The form of the state (canonical memory, formed TLB, aligned reservation): every write of the state keeps it, and so
does every step. -/
namespace Sys2Proof.Machine

/-! ## The form of the state -/

/-- R36: the address of a block is aligned. -/
@[simp] theorem blockOf_blockOf (a : Word) : blockOf (blockOf a) = blockOf a := by
  apply BitVec.eq_of_toNat_eq
  rw [blockOf_toNat, blockOf_toNat, Nat.mul_div_cancel _ (by decide)]

/-- D23: the lines of a set have different tags when its list of tags has no repetition. -/
theorem tlbSetFormed_iff (ways : Nat) (lines : List TlbLine) :
    tlbSetFormed ways lines ↔ lines.length ≤ ways ∧ (lines.map TlbLine.tag).Nodup := by
  rw [tlbSetFormed, List.Nodup, List.pairwise_map]

/-- R152: a set of the TLB stays formed when lines go. -/
theorem tlbSetFormed_filter (ways : Nat) (lines : List TlbLine) (keep : TlbLine → Bool)
    (h : tlbSetFormed ways lines) : tlbSetFormed ways (lines.filter keep) :=
  ⟨(List.length_filter_le _ _).trans h.1, h.2.filter _⟩

/-- R154: a set of the TLB stays formed when the line with a tag gives way to another with the same tag. -/
theorem tlbSetFormed_replace (ways : Nat) (lines : List TlbLine) (line : TlbLine) (h : tlbSetFormed ways lines) :
    tlbSetFormed ways (lines.map fun l => if l.tag == line.tag then line else l) := by
  have same_tags : (lines.map fun l => if l.tag == line.tag then line else l).map TlbLine.tag =
      lines.map TlbLine.tag := by
    rw [List.map_map]
    refine List.map_congr_left fun l _ => ?_
    by_cases he : l.tag = line.tag <;> simp [he]
  rw [tlbSetFormed_iff] at h ⊢
  rwa [same_tags, List.length_map]

/-- R154: a set of the TLB with a free way stays formed when a line with a new tag takes it. -/
theorem tlbSetFormed_append (ways : Nat) (lines : List TlbLine) (line : TlbLine) (h : tlbSetFormed ways lines)
    (hl : lines.length < ways) (hn : ∀ l ∈ lines, l.tag ≠ line.tag) : tlbSetFormed ways (lines ++ [line]) := by
  refine ⟨by simpa using hl, List.pairwise_append.mpr ⟨h.2, List.pairwise_singleton _ _, fun l hm l' hm' => ?_⟩⟩
  rw [List.mem_singleton.mp hm']
  exact hn l hm

/-- R154: a set of the TLB stays formed when a line with a new tag takes the place of another. -/
theorem tlbSetFormed_evict (ways : Nat) (lines : List TlbLine) (line : TlbLine) (k : Nat) (h : tlbSetFormed ways lines)
    (hn : ∀ l ∈ lines, l.tag ≠ line.tag) : tlbSetFormed ways (lines.set k line) := by
  rw [tlbSetFormed_iff] at h ⊢
  obtain ⟨hl, ht⟩ := h
  rw [List.length_set, List.map_set]
  refine ⟨hl, ht.set fun hm => ?_⟩
  obtain ⟨l, hl, he⟩ := List.mem_map.mp hm
  exact hn l hl he

/-- A state with the memory, the parameters and the TLB of a formed one is formed when its reservation is kept or
lost. -/
theorem State.formed_of_kept (s t : State) (hs : s.Formed) (hm : t.mem = s.mem) (hp : t.params = s.params)
    (ht : t.tlb = s.tlb) (hr : t.reservation = s.reservation ∨ t.reservation = none) : t.Formed := by
  obtain ⟨mem_wf, tlb_formed, aligned⟩ := hs
  refine ⟨hm ▸ mem_wf, ?_, ?_⟩
  · rw [hp, ht]
    exact tlb_formed
  · rcases hr with hr | hr <;> rw [hr]
    · exact aligned
    · rfl

theorem State.setMem_formed (s : State) (m : List Host.Cell) (hs : s.Formed) (hm : Memory.wf m) : (s.setMem m).Formed :=
  ⟨hm, hs.2⟩

/-- R28: a reservation of the block of an address is aligned. -/
theorem State.setReservation_formed (s : State) (a : Word) (hs : s.Formed) :
    (s.setReservation (some (blockOf a))).Formed :=
  ⟨hs.1, hs.2.1, congrArg some (blockOf_blockOf a)⟩

theorem State.clearReservation_formed (s : State) (hs : s.Formed) : (s.setReservation none).Formed :=
  ⟨hs.1, hs.2.1, rfl⟩

theorem State.setTlbSet_formed (s : State) (k : Fin 16) (lines : List TlbLine) (hs : s.Formed)
    (hl : tlbSetFormed s.params.tlbWays lines) : (s.setTlbSet k lines).Formed := by
  obtain ⟨mem_wf, tlb_formed, aligned⟩ := hs
  refine ⟨mem_wf, fun j => ?_, aligned⟩
  by_cases hj : j = k
  · subst hj
    simpa using hl
  · have other : (s.tlb.set k lines)[j] = s.tlb[j] := Vector.getElem_set_ne _ _ fun e => hj (Fin.ext e.symm)
    rw [State.setTlbSet_params, State.setTlbSet_tlb, other]
    exact tlb_formed j

theorem State.tlbClearAll_formed (s : State) (hs : s.Formed) : s.tlbClearAll.Formed :=
  ⟨hs.1, fun k => by simp [tlbSetFormed], hs.2.2⟩

theorem State.tlbClear_formed (s : State) (va : Word) (hs : s.Formed) : (s.tlbClear va).Formed :=
  s.setTlbSet_formed _ _ hs (tlbSetFormed_filter _ _ _ (hs.2.1 _))

theorem State.tlbSet_formed (s : State) (va entry : Word) (hs : s.Formed) : (s.tlbSet va entry).Formed := by
  have old : tlbSetFormed s.params.tlbWays (s.tlbLines va) := hs.2.1 _
  rcases s.tlbSet_cases va entry with h | ⟨hn, hl, h⟩ | ⟨hn, _, h⟩ <;> rw [h]
  · exact s.setTlbSet_formed _ _ hs (tlbSetFormed_replace _ _ ⟨tagOf va, entry⟩ old)
  · exact s.setTlbSet_formed _ _ hs (tlbSetFormed_append _ _ _ old hl hn)
  · exact s.setTlbSet_formed _ _ hs (tlbSetFormed_evict _ _ _ _ old hn)

/-- R146, U11: the reservation is kept or lost. -/
theorem State.mayLoseReservation_reservation (s : State) :
    s.mayLoseReservation.reservation = s.reservation ∨ s.mayLoseReservation.reservation = none := by
  rcases s.mayLoseReservation_cases with ⟨_, h⟩ | ⟨b, hb, h⟩ <;> rw [h]
  · exact .inl rfl
  · cases Config.reservationLost s.freeCount
    · exact .inl hb.symm
    · exact .inr rfl

theorem State.mayLoseReservation_formed (s : State) (hs : s.Formed) : s.mayLoseReservation.Formed :=
  s.formed_of_kept _ hs (by simp) (by simp) (by simp) s.mayLoseReservation_reservation

/-- R150: no auxiliary supervisor register is part of the form. -/
theorem State.setAsr_formed (s : State) (x : Fin 16) (v : Word) (hs : s.Formed) : (s.setAsr x v).Formed :=
  (s.setAsr_keeps State.Formed (fun _ _ => rfl) (fun _ _ => rfl) (fun _ _ => rfl) (fun _ _ _ => rfl) x v).mpr hs

/-! ## Entry into the table -/

/-- R191, R192: what no write that entry makes can change, entry does not change. -/
theorem State.entered_keeps {α : Type} (f : State → α) (hpc : ∀ s v, f (State.setPc s v) = f s)
    (hd : ∀ s, f (State.drawn s) = f s) (hh : ∀ s v, f (State.setHalted s v) = f s)
    (hr : ∀ s v, f (State.setReservation s v) = f s) (ha : ∀ s x v, f (State.setAur s x v) = f s)
    (h0 : ∀ s v, f (State.setSfr s v) = f s) (h1 : ∀ s v, f (State.setItr s v) = f s)
    (h2 : ∀ s v, f (State.setPfar s v) = f s) (h3 : ∀ s k v, f (State.setAsrReserved s k v) = f s) (s : State)
    (newPc newSfr : Word) : f (s.entered newPc newSfr) = f s := by
  rw [State.entered, hh, h0, hpc, State.mayLoseReservation_keeps f hr hd,
    State.saveContext_keeps f fun s t v => s.saveInto_keeps f ha h0 h1 h2 h3 t v]

/-- The state `s` with every field that entry may write as it is in `t`. -/
def State.withEntryOf (s t : State) : State :=
  { s with pc := t.pc, sfr := t.sfr, halted := t.halted, aur := t.aur, itr := t.itr, pfar := t.pfar,
           asrReserved := t.asrReserved, reservation := t.reservation, freeCount := t.freeCount }

/-- R191, R192: entry changes no other field. -/
theorem State.entered_eq_withEntryOf (s : State) (newPc newSfr : Word) :
    s.entered newPc newSfr = s.withEntryOf (s.entered newPc newSfr) :=
  State.entered_keeps (State.withEntryOf · (s.entered newPc newSfr)) (fun _ _ => rfl) (fun _ => rfl) (fun _ _ => rfl)
    (fun _ _ => rfl) (fun _ _ _ => rfl) (fun _ _ => rfl) (fun _ _ => rfl) (fun _ _ => rfl) (fun _ _ _ => rfl) s newPc
    newSfr

theorem State.entered_mem (s : State) (newPc newSfr : Word) : (s.entered newPc newSfr).mem = s.mem :=
  (congrArg State.mem (s.entered_eq_withEntryOf newPc newSfr)).trans rfl

theorem State.entered_tlb (s : State) (newPc newSfr : Word) : (s.entered newPc newSfr).tlb = s.tlb :=
  (congrArg State.tlb (s.entered_eq_withEntryOf newPc newSfr)).trans rfl

theorem State.saveContext_reservation (s : State) : s.saveContext.reservation = s.reservation :=
  State.saveContext_keeps State.reservation (fun s t v => s.saveInto_keeps State.reservation (fun _ _ _ => rfl)
    (fun _ _ => rfl) (fun _ _ => rfl) (fun _ _ => rfl) (fun _ _ _ => rfl) t v) s

/-- Entry keeps the reservation or loses it (log entry 12). -/
theorem State.entered_reservation (s : State) (newPc newSfr : Word) :
    (s.entered newPc newSfr).reservation = s.reservation ∨ (s.entered newPc newSfr).reservation = none :=
  s.saveContext_reservation ▸ s.saveContext.mayLoseReservation_reservation

/-- R191, R192: the frame of an entry. -/
theorem State.entered_enteredWith (s : State) (newPc newSfr : Word) :
    EnteredWith s (s.entered newPc newSfr) newPc newSfr :=
  ⟨s.entered_eq_withEntryOf newPc newSfr, fun a => congrArg (Memory.read · a.toNat) (s.entered_mem newPc newSfr),
    s.entered_reservation newPc newSfr⟩

/-! ## The form is kept by every step -/

/-- R191: entry into the table keeps the form. -/
theorem State.enter_formed (s t : State) (n : BitVec 8) (hs : s.Formed) (h : s.enter n = .next t) : t.Formed := by
  obtain ⟨newPc, newSfr, _, rfl⟩ := s.enter_next t n h
  exact s.formed_of_kept _ hs (s.entered_mem _ _) (s.entered_params _ _) (s.entered_tlb _ _) (s.entered_reservation _ _)

theorem State.recordTrap_formed (s : State) (c : TrapCause) (hs : s.Formed) : (s.recordTrap c).Formed := by
  cases c <;> exact hs

/-- R186: an exception keeps the form. -/
theorem State.raise_formed (s t : State) (c : TrapCause) (hs : s.Formed) (h : s.raise c = .next t) : t.Formed := by
  rcases s.raise_cases c with ⟨_, e⟩ | ⟨n, _, e⟩ <;> rw [e] at h
  · cases h
  · exact State.enter_formed _ t n (s.recordTrap_formed c hs) h

/-- The update of an instruction keeps the form: it writes registers, or makes one of the writes above. -/
theorem ownUpdate_formed (s t : State) (i : Instr) (hs : s.Formed) (h : ownUpdate s t i) : t.Formed := by
  have lost : s.mayLoseReservation.Formed := s.mayLoseReservation_formed hs
  have wf (pa v : Word) : Memory.wf (Memory.writeRotated s.mem pa v) := Memory.writeRotated_wf _ hs.1 pa v
  cases i with
  | null | trace | ext | extSystemCall => exact h.elim
  | halt | mfsr | mtsr | mf | mt | jumpa | calla | ret | retl | mtlr | nop | extDataFence | extInstructionFence
  | extMoveToAur =>
    rw [show t = _ from h]
    exact hs
  | mflr | pc | test | and | or | xor | add | shl | shr | extHartId | extTlbGet | extCheckExtension
  | andi | ori | xori | addi | jump =>
    obtain ⟨_, rfl⟩ := h
    exact hs
  | call => rcases h with ⟨_, _, rfl⟩ | rfl <;> exact hs
  | ld =>
    obtain ⟨_, rfl⟩ := h
    exact lost
  | st =>
    obtain ⟨_, rfl⟩ := h
    exact s.mayLoseReservation.setMem_formed _ lost (wf _ _)
  | extAtomicAnd | extAtomicOr | extAtomicXor | extAtomicAdd =>
    obtain ⟨_, _, _, rfl⟩ := h
    exact s.mayLoseReservation.setMem_formed _ lost (wf _ _)
  | extMoveFromAur | extMoveFromAsr =>
    obtain ⟨defined, _, rfl⟩ := h
    cases defined <;> exact hs
  | extMoveToAsr x =>
    obtain ⟨_, rfl⟩ := h
    exact s.setAsr_formed x s.acc hs
  | extLoadLink x =>
    obtain ⟨_, rfl⟩ := h
    exact s.setReservation_formed (s.readGpr x) hs
  | extStoreConditional =>
    rcases h with ⟨pa, rfl⟩ | rfl
    · exact (s.setMem _).clearReservation_formed (s.setMem_formed _ hs (wf pa s.acc))
    · exact s.clearReservation_formed hs
  | extTlbClearAll =>
    rw [show t = _ from h]
    exact s.tlbClearAll_formed hs
  | extTlbClear x =>
    rw [show t = _ from h]
    exact s.tlbClear_formed (s.readGpr x) hs
  | extTlbSet x =>
    rw [show t = _ from h]
    exact s.tlbSet_formed (s.readGpr x) s.acc hs

/-- Settles O52: an entry, an exception and the update of an instruction each keep the form. -/
theorem everyStepKeepsTheFormOfTheState : Obligations.EveryStepKeepsTheFormOfTheState := by
  intro s t hs h
  rcases step_next_cases s t h with ⟨n, r, hr, hn⟩ | ⟨_, _, ⟨c, _, hc⟩ | ⟨i, _, hx⟩⟩
  · obtain ⟨_, rest, _, rfl⟩ := s.received_eq_some r n hr
    exact (s.setIrq rest).enter_formed t n hs hn
  · exact s.raise_formed t c hs hc
  · rcases exec_next_cases i s t hx with ⟨c, hc⟩ | ⟨j, _, hj⟩
    · exact s.raise_formed t c hs hc
    · exact ownUpdate_formed s t j hs hj

/-! ## The state after reset -/

/-- Settles O53: memory and the sixteen sets of the TLB are empty and nothing is reserved. -/
theorem resetHasTheFormOfTheState : Obligations.ResetHasTheFormOfTheState :=
  ⟨⟨List.Pairwise.nil, fun _ hc => absurd hc List.not_mem_nil⟩,
    fun k => by simp [State.reset, tlbSetFormed], rfl⟩

/-- R26: `asr1` reads with its low 12 bits zero, whatever it holds. -/
theorem State.asrValue_one_low (s : State) : (s.asrValue 1).extractLsb' 0 12 = 0#12 :=
  BitVec.extractLsb'_append_eq_right

/-- Settles O54. -/
theorem resetIsNotHaltedAndHoldsNoReservation : Obligations.ResetIsNotHaltedAndHoldsNoReservation :=
  ⟨rfl, rfl, State.reset.asrValue_one_low⟩

end Sys2Proof.Machine
end

section
/-! SUPPORT. What an instruction does to the link register, to the accumulator and to `pc`. -/
namespace Sys2Proof.Machine

/-! ## The accumulator, the link register and `pc` -/

/-- R182, R191, R192: no exception writes the accumulator. -/
theorem State.raise_acc (s t : State) (c : TrapCause) (h : s.raise c = .next t) : t.acc = s.acc :=
  State.raise_keeps State.acc (fun _ _ => rfl) (fun _ => rfl) (fun _ _ => rfl) (fun _ _ => rfl) (fun _ _ _ => rfl)
    (fun _ _ => rfl) (fun _ _ => rfl) (fun _ _ => rfl) (fun _ _ _ => rfl) s t c h

/-- R182, R191, R192: no exception writes the link register. -/
theorem State.raise_lr (s t : State) (c : TrapCause) (h : s.raise c = .next t) : t.lr = s.lr :=
  State.raise_keeps State.lr (fun _ _ => rfl) (fun _ => rfl) (fun _ _ => rfl) (fun _ _ => rfl) (fun _ _ _ => rfl)
    (fun _ _ => rfl) (fun _ _ => rfl) (fun _ _ => rfl) (fun _ _ _ => rfl) s t c h

@[simp] theorem State.readAuxIntoAcc_lr (s : State) (defined : Bool) (held : Word) :
    (s.readAuxIntoAcc defined held).lr = s.lr := by
  cases defined <;> rfl

@[simp] theorem State.setAsr_lr (s : State) (x : Fin 16) (v : Word) : (s.setAsr x v).lr = s.lr :=
  s.setAsr_keeps State.lr (fun _ _ => rfl) (fun _ _ => rfl) (fun _ _ => rfl) (fun _ _ _ => rfl) x v

@[simp] theorem State.tlbClear_lr (s : State) (va : Word) : (s.tlbClear va).lr = s.lr := rfl

@[simp] theorem State.tlbSet_lr (s : State) (va entry : Word) : (s.tlbSet va entry).lr = s.lr := by
  rcases s.tlbSet_cases va entry with h | ⟨_, _, h⟩ | ⟨_, _, h⟩ <;> rw [h] <;> rfl

/-- R18: an instruction that leaves the link register, or writes it as a writer does. -/
def LinkKeptOrWritten (s t : State) (i : Instr) : Prop :=
  t.lr = s.lr ∨ (t.lr = s.acc ∧ i = .mtlr) ∨ (t.lr = s.pc + 1 ∧ (i = .calla ∨ i = .retl)) ∨
    (t.lr = s.pc + 3 ∧ ∃ c imm, i = .call c imm ∧ condHolds c s.acc = true)

/-- R18, R120: the update of an instruction leaves the link register, unless it is one of the four writers. -/
theorem ownUpdate_lr (s t : State) (i : Instr) (h : ownUpdate s t i) : LinkKeptOrWritten s t i := by
  cases i with
  | null | trace | ext | extSystemCall => exact h.elim
  | mtlr =>
    rw [show t = _ from h]
    exact .inr (.inl ⟨rfl, rfl⟩)
  | calla =>
    rw [show t = _ from h]
    exact .inr (.inr (.inl ⟨rfl, .inl rfl⟩))
  | retl =>
    rw [show t = _ from h]
    exact .inr (.inr (.inl ⟨rfl, .inr rfl⟩))
  | call c imm =>
    rcases h with ⟨hc, _, rfl⟩ | rfl
    · exact .inr (.inr (.inr ⟨rfl, c, imm, rfl, hc⟩))
    · exact .inl rfl
  | halt | mfsr | mtsr | mf | mt | jumpa | ret | nop | extDataFence | extInstructionFence
  | extMoveToAur | extTlbClearAll | extTlbClear | extTlbSet =>
    rw [show t = _ from h]
    exact .inl (by simp)
  | mflr | pc | test | and | or | xor | add | shl | shr | extHartId | extTlbGet | extCheckExtension
  | andi | ori | xori | addi | jump | ld | st | extLoadLink =>
    obtain ⟨_, rfl⟩ := h
    exact .inl (by simp)
  | extAtomicAnd | extAtomicOr | extAtomicXor | extAtomicAdd =>
    obtain ⟨_, _, _, rfl⟩ := h
    exact .inl (by simp)
  | extMoveFromAur | extMoveFromAsr =>
    obtain ⟨_, _, rfl⟩ := h
    exact .inl (by simp)
  | extMoveToAsr =>
    obtain ⟨_, rfl⟩ := h
    exact .inl (by simp)
  | extStoreConditional => rcases h with ⟨_, rfl⟩ | rfl <;> exact .inl (by simp)

/-- R18: no action of `ext` writes the link register. -/
theorem LinkKeptOrWritten.lr_of_action {s t : State} {i : Instr} (h : LinkKeptOrWritten s t i)
    (hi : i.actionNumber ≠ none) : t.lr = s.lr := by
  rcases h with h | ⟨_, rfl⟩ | ⟨_, rfl | rfl⟩ | ⟨_, _, _, rfl, _⟩
  · exact h
  all_goals exact absurd rfl hi

/-- Settles O22: an exception leaves the link register, and so does the action that `ext` performs. -/
theorem linkRegisterWriters : Obligations.LinkRegisterWriters := by
  intro i s t h
  rcases exec_next_cases i s t h with ⟨c, hc⟩ | ⟨j, rfl | ⟨_, hw⟩, hj⟩
  · exact .inl (s.raise_lr t c hc)
  · exact ownUpdate_lr s t j hj
  · exact .inl ((ownUpdate_lr s t j hj).lr_of_action (decodeAction_isAction _ j hw))

/-- R16: the instructions that do not write the accumulator. -/
def LeavesAcc (i : Instr) : Prop :=
  i = .null ∨ i = .trace ∨ i = .halt ∨ i = .mtsr ∨ i = .jumpa ∨ i = .calla ∨ i = .ret ∨ i = .retl ∨ i = .mtlr ∨
    i = .nop ∨ (∃ x, i = .mt x) ∨ (∃ c imm, i = .jump c imm) ∨ (∃ c imm, i = .call c imm) ∨ (∃ x imm, i = .st x imm)

/-- R16: the update of such an instruction leaves the accumulator. -/
theorem ownUpdate_acc (s t : State) (i : Instr) (hi : LeavesAcc i) (h : ownUpdate s t i) : t.acc = s.acc := by
  cases i with
  | null | trace => exact h.elim
  | halt | mtsr | mt | jumpa | calla | ret | retl | mtlr | nop =>
    rw [show t = _ from h]
    rfl
  | jump =>
    obtain ⟨_, rfl⟩ := h
    rfl
  | call => rcases h with ⟨_, _, rfl⟩ | rfl <;> rfl
  | st =>
    obtain ⟨_, rfl⟩ := h
    exact s.mayLoseReservation_acc
  | _ => simp [LeavesAcc] at hi

/-- Settles O23: an exception leaves the accumulator, and so does the update of each of these instructions. -/
theorem accumulatorKept : Obligations.AccumulatorKept := by
  intro i s t h hi
  have not_ext : i ≠ .ext := by
    rintro rfl
    simp at hi
  rcases exec_next i s t not_ext h with ⟨c, hc⟩ | hu
  · exact s.raise_acc t c hc
  · exact ownUpdate_acc s t i hi hu

/-- R116 to R120: the instructions that choose the address they go on at. -/
def IsTransfer (i : Instr) : Prop :=
  (∃ c imm, i = .jump c imm) ∨ (∃ c imm, i = .call c imm) ∨ i = .jumpa ∨ i = .calla ∨ i = .ret ∨ i = .retl

/-- R92: an action is the one byte `03` in memory. -/
theorem encode_action_length (i : Instr) (hi : i.actionNumber ≠ none) : (encode i).length = 1 := by
  cases i with
  | extDataFence | extInstructionFence | extMoveFromAur | extMoveToAur | extAtomicAnd | extAtomicOr | extAtomicXor
  | extAtomicAdd | extLoadLink | extStoreConditional | extSystemCall | extHartId | extMoveFromAsr | extMoveToAsr
  | extTlbClearAll | extTlbClear | extTlbGet | extTlbSet | extCheckExtension => rfl
  | _ => exact absurd rfl hi

/-- R15, R120: an instruction that is no transfer goes on after its own bytes. -/
theorem ownUpdate_pc (s t : State) (i : Instr) (hi : ¬IsTransfer i) (h : ownUpdate s t i) :
    t.pc = s.pc + BitVec.ofNat 64 (encode i).length := by
  cases i with
  | null | trace | ext | extSystemCall => exact h.elim
  | jump | call | jumpa | calla | ret | retl => exact absurd (by simp [IsTransfer]) hi
  | halt | mfsr | mtsr | mf | mt | mtlr | nop | extDataFence | extInstructionFence
  | extMoveToAur | extTlbClearAll | extTlbClear | extTlbSet =>
    rw [show t = _ from h]
    rfl
  | mflr | pc | test | and | or | xor | add | shl | shr | extHartId | extTlbGet | extCheckExtension
  | andi | ori | xori | addi | ld | st | extLoadLink =>
    obtain ⟨_, rfl⟩ := h
    rfl
  | extAtomicAnd | extAtomicOr | extAtomicXor | extAtomicAdd =>
    obtain ⟨_, _, _, rfl⟩ := h
    rfl
  | extMoveFromAur | extMoveFromAsr =>
    obtain ⟨_, _, rfl⟩ := h
    rfl
  | extMoveToAsr =>
    obtain ⟨_, rfl⟩ := h
    rfl
  | extStoreConditional => rcases h with ⟨_, rfl⟩ | rfl <;> rfl

/-- R97 to R100, R116, R117: no action is a transfer. -/
theorem not_isTransfer_of_action (i : Instr) (hi : i.actionNumber ≠ none) : ¬IsTransfer i := by
  rintro (⟨_, _, rfl⟩ | ⟨_, _, rfl⟩ | rfl | rfl | rfl | rfl) <;> exact hi rfl

/-- Settles O24: `ext` goes on after its one byte, as every action does. -/
theorem sequentialInstructionsAdvance : Obligations.SequentialInstructionsAdvance := by
  intro i s t h hjump hcall hjumpa hcalla hret hretl
  have hi : ¬IsTransfer i := by
    rintro (⟨c, imm, e⟩ | ⟨c, imm, e⟩ | e | e | e | e)
    · exact hjump c imm e
    · exact hcall c imm e
    · exact hjumpa e
    · exact hcalla e
    · exact hret e
    · exact hretl e
  rcases exec_next_cases i s t h with hc | ⟨j, rfl | ⟨rfl, hw⟩, hj⟩
  · exact .inr hc
  · exact .inl (ownUpdate_pc s t j hi hj)
  · have action : j.actionNumber ≠ none := decodeAction_isAction _ j hw
    have len : (encode j).length = (encode .ext).length := encode_action_length j action
    exact .inl (len ▸ ownUpdate_pc s t j (not_isTransfer_of_action j action) hj)

end Sys2Proof.Machine
end

section
/-! SUPPORT. The moves with the auxiliary supervisor registers, and what entry into the table saves. -/
namespace Sys2Proof.Machine

/-! ## Auxiliary supervisor registers -/

/-- R26: the bits 63 to 12 of a word, as `asr1` reads. -/
theorem itrValue_of_word (v : Word) :
    (v.extractLsb' 12 52 ++ 0#12 : Word) = BitVec.ofNat 64 (v.toNat / 4096 * 4096) := by
  have h : (v.extractLsb' 12 52 ++ 0#12 : Word).toNat = (v.extractLsb' 12 52).toNat * 4096 := itrValue_toNat _
  have := v.isLt
  apply BitVec.eq_of_toNat_eq
  rw [h, BitVec.extractLsb'_toNat, Nat.shiftRight_eq_div_pow, BitVec.toNat_ofNat]
  omega

/-- R26: `asr1` as it reads. -/
theorem State.asrValue_one (s : State) : s.asrValue 1 = BitVec.ofNat 64 (s.itr.toNat * 4096) :=
  BitVec.eq_of_toNat_eq <| by
    have h : (s.asrValue 1).toNat = s.itr.toNat * 4096 := itrValue_toNat _
    have := s.itr.isLt
    rw [h, BitVec.toNat_ofNat, Nat.mod_eq_of_lt (by omega)]

/-- R24: `asr0`, `asr1` and `asr2` are defined, whatever `INT_SAVE` names. -/
theorem State.asrDefined_of_lt (s : State) (x : Fin 16) (hx : x.val < 3) : s.asrDefined x = true := by
  simp [State.asrDefined, hx]

/-- R92, R133: an implemented supervisor-level action with a register digit acts when the supervisor bit is set. -/
theorem State.gate_supervisor (s : State) (high : BitVec 12) (x : Fin 16) (r : Result)
    (hi : s.implements (digitNumber high x) = true) (hs : s.supervisor = true) : s.gate (digitNumber high x) r = r :=
  s.gate_acts _ _ hi fun _ => hs

/-- R149: the move from an auxiliary supervisor register that is defined. -/
theorem exec_extMoveFromAsr_defined (x : Fin 16) (s : State) (hi : s.implements (digitNumber 0x802#12 x) = true)
    (hs : s.supervisor = true) (hd : s.asrDefined x = true) :
    exec (.extMoveFromAsr x) s = .next { s with acc := s.asrValue x, pc := s.pc + 1 } := by
  refine (s.gate_supervisor _ x _ hi hs).trans ?_
  rw [hd]
  rfl

/-- R149, U7: the move from an auxiliary supervisor register that is reserved. -/
theorem exec_extMoveFromAsr_reserved (x : Fin 16) (s : State) (hi : s.implements (digitNumber 0x802#12 x) = true)
    (hs : s.supervisor = true) (hd : s.asrDefined x = false) :
    exec (.extMoveFromAsr x) s =
      .next { s with acc := Config.reservedRead s.freeCount (s.asrValue x), pc := s.pc + 1,
                     freeCount := s.freeCount + 1 } := by
  refine (s.gate_supervisor _ x _ hi hs).trans ?_
  rw [hd]
  rfl

/-- Settles O45: `asr0` to `asr2` are defined, and the two moves are as said above. -/
theorem moveFromAuxiliarySupervisorRegister : Obligations.MoveFromAuxiliarySupervisorRegister := by
  intro x s hi hs
  refine ⟨?_, ?_, ?_, fun _ hd => exec_extMoveFromAsr_reserved x s hi hs hd,
    fun _ hd => exec_extMoveFromAsr_defined x s hi hs hd⟩
  · rintro rfl
    exact exec_extMoveFromAsr_defined 0 s hi hs rfl
  · rintro rfl
    rw [← s.asrValue_one]
    exact exec_extMoveFromAsr_defined 1 s hi hs rfl
  · rintro rfl
    exact exec_extMoveFromAsr_defined 2 s hi hs rfl

/-- The state `s` with its auxiliary supervisor registers as they are in `t`. -/
def State.withAsrOf (s t : State) : State :=
  { s with sfr := t.sfr, itr := t.itr, pfar := t.pfar, asrReserved := t.asrReserved }

/-- R150: the write of an auxiliary supervisor register changes no field of another kind. -/
theorem State.setAsr_eq_withAsrOf (s : State) (x : Fin 16) (v : Word) : s.setAsr x v = s.withAsrOf (s.setAsr x v) :=
  s.setAsr_keeps (State.withAsrOf · (s.setAsr x v)) (fun _ _ => rfl) (fun _ _ => rfl) (fun _ _ => rfl)
    (fun _ _ _ => rfl) x v

/-- Settles O46: the state after the move is that after the write of the register, which reads as it was written. -/
theorem moveToAuxiliarySupervisorRegister : Obligations.MoveToAuxiliarySupervisorRegister := by
  intro x s hi hs
  refine ⟨(s.setAsr x s.acc).setPc (s.nextPc 1), s.gate_supervisor _ x _ hi hs, ?_,
    fun y hy => s.asrValue_setAsr_ne x y s.acc hy,
    congrArg (State.setPc · (s.nextPc 1)) (s.setAsr_eq_withAsrOf x s.acc)⟩
  rw [← itrValue_of_word]
  exact s.asrValue_setAsr_same x s.acc

/-! ## What entry saves -/

/-- The saves of a list of pairs into a state, every value taken from the state `s` (R192). -/
def State.saveAll (s : State) (l : List (SaveSource × SaveTarget)) (t : State) : State :=
  l.foldl (fun t p => t.saveInto p.2 (s.saveValue p.1)) t

theorem State.saveContext_eq_saveAll (s : State) : s.saveContext = s.saveAll s.params.intSave s := rfl

/-- R192: saves leave every register that no pair names. -/
theorem State.targetValue_saveAll_of_not_named (s : State) (target : SaveTarget) (l : List (SaveSource × SaveTarget))
    (h : ∀ q ∈ l, q.2 ≠ target) (t : State) : (s.saveAll l t).targetValue target = t.targetValue target := by
  induction l generalizing t with
  | nil => rfl
  | cons q rest ih =>
    obtain ⟨hq, hrest⟩ := List.forall_mem_cons.mp h
    calc (s.saveAll (q :: rest) t).targetValue target
        = (t.saveInto q.2 (s.saveValue q.1)).targetValue target := ih hrest _
      _ = t.targetValue target := t.targetValue_saveInto_ne q.2 target _ hq.symm

/-- R26, R192: a register holds what its last pair saves, `asr1` without its low 12 bits. -/
theorem State.targetValue_saveAll_of_last (s : State) (first later : List (SaveSource × SaveTarget)) (src : SaveSource)
    (target : SaveTarget) (h : ∀ q ∈ later, q.2 ≠ target) (t : State) :
    (s.saveAll (first ++ (src, target) :: later) t).targetValue target =
      if target = .asr 1 then BitVec.ofNat 64 ((s.saveValue src).toNat / 4096 * 4096) else s.saveValue src := by
  rw [State.saveAll, List.foldl_append, List.foldl_cons]
  refine (s.targetValue_saveAll_of_not_named target later h _).trans ?_
  rw [State.targetValue_saveInto_same, itrValue_of_word]

/-- R23, R24: a register that `INT_SAVE` names as a target is a defined one. -/
theorem State.targetDefined_of_named (s : State) (src : SaveSource) (target : SaveTarget)
    (h : (src, target) ∈ s.params.intSave) : s.targetDefined target = true := by
  have named : s.params.intSave.any (fun p => p.2 == target) = true :=
    List.any_eq_true.mpr ⟨_, h, beq_self_eq_true target⟩
  cases target with
  | aur x => exact named
  | asr x => exact Bool.or_eq_true_iff.mpr (.inr named)

/-- R191, R192: after the saves, entry writes no register but `asr0` that could be a target. -/
theorem State.targetValue_entered (s : State) (newPc newSfr : Word) (target : SaveTarget) (h : target ≠ .asr 0) :
    (s.entered newPc newSfr).targetValue target = s.saveContext.targetValue target := by
  have lost : s.saveContext.mayLoseReservation.targetValue target = s.saveContext.targetValue target :=
    State.mayLoseReservation_keeps (State.targetValue · target) (fun _ _ => by cases target <;> rfl)
      (fun _ => by cases target <;> rfl) _
  have asr0 (t : State) : (t.setSfr newSfr).targetValue target = t.targetValue target :=
    t.targetValue_saveInto_ne (.asr 0) target newSfr h
  calc (s.entered newPc newSfr).targetValue target
      = ((s.saveContext.mayLoseReservation.setPc newPc).setSfr newSfr).targetValue target := by cases target <;> rfl
    _ = (s.saveContext.mayLoseReservation.setPc newPc).targetValue target := asr0 _
    _ = s.saveContext.targetValue target := by rw [← lost]; cases target <;> rfl

/-- R191: an entry whose table entry is read completes. -/
theorem State.enter_eq_next (s : State) (n : BitVec 8) (newPc newSfr : Word)
    (h : s.tableEntry n = .ok (newPc, newSfr)) : s.enter n = .next (s.entered newPc newSfr) := by
  simp [State.enter, h]

/-- Settles O35: the last save to a register stands, and what entry does after the saves leaves it. -/
theorem entrySavesWhatIntSaveNames : Obligations.EntrySavesWhatIntSaveNames := by
  intro s n p f h
  refine ⟨s.entered p f, s.enter_eq_next n p f h, s.entered_enteredWith p f, ?_, ?_⟩
  · intro first later src target hl hlater hne
    have named : (src, target) ∈ (s.entered p f).params.intSave := by simp [hl]
    refine ⟨State.targetDefined_of_named _ src target named, ?_⟩
    rw [s.targetValue_entered p f target hne, s.saveContext_eq_saveAll, hl]
    exact s.targetValue_saveAll_of_last first later src target hlater s
  · intro target hn hne
    rw [s.targetValue_entered p f target hne, s.saveContext_eq_saveAll]
    exact s.targetValue_saveAll_of_not_named target _ hn s

end Sys2Proof.Machine
end

section
/-! SUPPORT. The bytes of a rotated access, load-link and store-conditional, and the step as the execution of the instruction
whose bytes the fetch finds. -/
namespace Sys2Proof.Machine

/-! ## The bytes of a rotated access -/

/-- R3: the bits of a byte of a word. -/
theorem getLsbD_wordByte (w : Word) (i j : Nat) (hj : j < 8) : (wordByte w i).getLsbD j = w.getLsbD (8 * i + j) := by
  simp [wordByte, hj]

/-- R37: byte `i` of a word rotated right by `k` bytes. -/
theorem wordByte_rotateRight (w : Word) (k i : Nat) (hk : k < 8) (hi : i < 8) :
    wordByte (w.rotateRight (8 * k)) i = wordByte w ((k + i) % 8) := by
  have amount : 8 * k % 64 = 8 * k := Nat.mod_eq_of_lt (by omega)
  refine BitVec.eq_of_getLsbD_eq fun j hj => ?_
  rw [getLsbD_wordByte _ _ _ hj, getLsbD_wordByte _ _ _ hj, BitVec.getLsbD_rotateRight, amount]
  by_cases h : k + i < 8
  · simp [show 8 * i + j < 64 - 8 * k by omega, show 8 * k + (8 * i + j) = 8 * ((k + i) % 8) + j by omega]
  · simp [show ¬8 * i + j < 64 - 8 * k by omega, show 8 * i + j < 64 by omega,
      show 8 * i + j - (64 - 8 * k) = 8 * ((k + i) % 8) + j by omega]

/-- R37: byte `i` of a word stands at place `k + i` of the word rotated left by `k` bytes. -/
theorem wordByte_rotateLeft (w : Word) (k i : Nat) (hk : k < 8) (hi : i < 8) :
    wordByte (w.rotateLeft (8 * k)) ((k + i) % 8) = wordByte w i := by
  have amount : 8 * k % 64 = 8 * k := Nat.mod_eq_of_lt (by omega)
  refine BitVec.eq_of_getLsbD_eq fun j hj => ?_
  rw [getLsbD_wordByte _ _ _ hj, getLsbD_wordByte _ _ _ hj, BitVec.getLsbD_rotateLeft, amount]
  by_cases h : k + i < 8
  · simp [show ¬8 * ((k + i) % 8) + j < 8 * k by omega, show 8 * ((k + i) % 8) + j < 64 by omega,
      show 8 * ((k + i) % 8) + j - 8 * k = 8 * i + j by omega]
  · simp [show 8 * ((k + i) % 8) + j < 8 * k by omega,
      show 64 - 8 * k + (8 * ((k + i) % 8) + j) = 8 * i + j by omega]

/-- The lowest byte of a field with a byte below it. -/
theorem extractLsb'_append_byte_zero {n : Nat} (x : BitVec n) (y : Byte) : (x ++ y).extractLsb' (8 * 0) 8 = y :=
  BitVec.extractLsb'_append_eq_right

/-- The other bytes of a field with a byte below it. -/
theorem extractLsb'_append_byte_succ {n : Nat} (x : BitVec n) (y : Byte) (i : Nat) :
    (x ++ y).extractLsb' (8 * (i + 1)) 8 = x.extractLsb' (8 * i) 8 :=
  BitVec.extractLsb'_append_eq_of_le (by omega)

/-- R38: byte `i` of a block is the byte at its address. -/
theorem wordByte_readBlock (m : List Host.Cell) (b : Word) (i : Nat) (hi : i < 8) :
    wordByte (Memory.readBlock m b) i = Memory.read m (b + BitVec.ofNat 64 i).toNat := by
  unfold wordByte Memory.readBlock
  match i, hi with
  | 0, _ => exact extractLsb'_append_byte_zero _ _
  | 1, _ | 2, _ | 3, _ | 4, _ | 5, _ | 6, _ =>
    repeat refine (extractLsb'_append_byte_succ _ _ _).trans ?_
    exact extractLsb'_append_byte_zero _ _
  | 7, _ =>
    repeat refine (extractLsb'_append_byte_succ _ _ _).trans ?_
    exact BitVec.extractLsb'_eq_self

/-- R39: byte `i` of a block that was written is byte `i` of the word. -/
theorem Memory.read_writeBlock_inside (m : List Host.Cell) (hm : Memory.wf m) (b w : Word) (i : Nat) (hi : i < 8) :
    Memory.read (Memory.writeBlock m b w) (b + BitVec.ofNat 64 i).toNat = wordByte w i := by
  rw [Memory.read_writeBlock m hm]
  simp only [← BitVec.toNat_eq, BitVec.add_right_inj]
  interval_cases i <;> simp

/-- R39: the write of a block changes no byte outside it. -/
theorem Memory.read_writeBlock_outside (m : List Host.Cell) (hm : Memory.wf m) (b w : Word) (a : Nat)
    (h : ∀ i, i < 8 → a ≠ (b + BitVec.ofNat 64 i).toNat) :
    Memory.read (Memory.writeBlock m b w) a = Memory.read m a := by
  rw [Memory.read_writeBlock m hm]
  simp only [BitVec.ofNat_eq_ofNat]
  rw [if_neg (h 7 (by decide)), if_neg (h 6 (by decide)), if_neg (h 5 (by decide)),
    if_neg (h 4 (by decide)), if_neg (h 3 (by decide)), if_neg (h 2 (by decide)), if_neg (h 1 (by decide)),
    if_neg (h 0 (by decide))]

theorem rotCount_lt (a : Word) : rotCount a < 8 := (a.extractLsb' 0 3).isLt

/-- R36: an address of a byte of a block lies in that block. -/
theorem blockOf_blockOf_add (a : Word) (i : Nat) (hi : i < 8) :
    blockOf (blockOf a + BitVec.ofNat 64 i) = blockOf a := by
  apply BitVec.eq_of_toNat_eq
  rw [blockOf_toNat, blockOf_add_toNat a i hi, blockOf_toNat]
  omega

/-- R37, R38: byte `i` of a rotated read. -/
theorem wordByte_readRotated (m : List Host.Cell) (a : Word) (i : Nat) (hi : i < 8) :
    wordByte (Memory.readRotated m a) i =
      Memory.read m (blockOf a + BitVec.ofNat 64 ((rotCount a + i) % 8)).toNat :=
  (wordByte_rotateRight _ _ i (rotCount_lt a) hi).trans (wordByte_readBlock m _ _ (Nat.mod_lt _ (by decide)))

/-- R39: where a rotated write puts byte `i` of the value. -/
theorem Memory.read_writeRotated_inside (m : List Host.Cell) (hm : Memory.wf m) (a v : Word) (i : Nat) (hi : i < 8) :
    Memory.read (Memory.writeRotated m a v) (blockOf a + BitVec.ofNat 64 ((rotCount a + i) % 8)).toNat =
      wordByte v i :=
  (Memory.read_writeBlock_inside m hm _ _ _ (Nat.mod_lt _ (by decide))).trans
    (wordByte_rotateLeft v _ i (rotCount_lt a) hi)

/-- R39: a rotated write changes no byte of another block. -/
theorem Memory.read_writeRotated_outside (m : List Host.Cell) (hm : Memory.wf m) (a v a' : Word)
    (h : blockOf a' ≠ blockOf a) : Memory.read (Memory.writeRotated m a v) a'.toNat = Memory.read m a'.toNat :=
  Memory.read_writeBlock_outside m hm _ _ _ fun i hi e =>
    h (by rw [BitVec.eq_of_toNat_eq e, blockOf_blockOf_add a i hi])

/-! ## Load-link and store-conditional -/

/-- R38: the load at an address that is located. -/
theorem State.load_of_locate (s : State) (va pa : Word) (h : s.locate .read va = .ok pa) :
    s.load va = .ok (Memory.readRotated s.mem pa) := by
  simp [State.load, h]

/-- R39: the store at an address that is located. -/
theorem State.store_of_locate (s : State) (va pa v : Word) (h : s.locate .write va = .ok pa) :
    s.store va v = .ok (Memory.writeRotated s.mem pa v) := by
  simp [State.store, h]

/-- R92: what is implemented is a matter of the parameters alone. -/
theorem State.implements_of_params (s t : State) (h : t.params = s.params) (n : ExtNumber) :
    t.implements n = s.implements n := by
  simp [State.implements, h]

/-- R145: a load-link whose load gives a value. -/
theorem exec_extLoadLink (x : Reg) (s : State) (v : Word) (hi : s.implements (digitNumber 0x00a#12 x) = true)
    (hl : s.load (s.readGpr x) = .ok v) :
    exec (.extLoadLink x) s =
      .next (((s.setAcc v).setReservation (some (blockOf (s.readGpr x)))).setPc (s.nextPc 1)) :=
  (s.gate_user _ x _ hi rfl).trans (by simp [State.loadLink, hl])

/-- R146: a store-conditional whose reservation holds, at an address that can be written. -/
theorem exec_extStoreConditional_held (x : Reg) (s : State) (pa : Word)
    (hi : s.implements (digitNumber 0x00b#12 x) = true) (hr : s.reservation = some (blockOf (s.readGpr x)))
    (hl : s.locate .write (s.readGpr x) = .ok pa) :
    exec (.extStoreConditional x) s =
      .next ((((s.setMem (Memory.writeRotated s.mem pa s.acc)).setAcc 0).setReservation none).setPc (s.nextPc 1)) :=
  (s.gate_user _ x _ hi rfl).trans (by simp [State.storeConditional, hr, s.store_of_locate _ _ _ hl])

/-- R146: a store-conditional whose reservation does not hold. -/
theorem exec_extStoreConditional_lost (x : Reg) (s : State) (hi : s.implements (digitNumber 0x00b#12 x) = true)
    (hr : s.reservation ≠ some (blockOf (s.readGpr x))) :
    exec (.extStoreConditional x) s = .next (((s.setAcc Word.minusOne).setReservation none).setPc (s.nextPc 1)) :=
  (s.gate_user _ x _ hi rfl).trans (by simp [State.storeConditional, hr])

/-- Settles O41: the load is the rotated read of the block that is located. -/
theorem loadLinkReservesTheBlock : Obligations.LoadLinkReservesTheBlock := by
  intro x s pa hi hl
  exact ⟨_, exec_extLoadLink x s _ hi (s.load_of_locate _ pa hl), fun i hi => wordByte_readRotated s.mem pa i hi,
    fun _ => rfl, rfl⟩

/-- Settles O42: with the reservation held the store is the rotated write of the block that is located. -/
theorem storeConditionalObeysTheReservation : Obligations.StoreConditionalObeysTheReservation := by
  intro x s wf hi
  refine ⟨fun pa hr hl => ?_, fun hr => exec_extStoreConditional_lost x s hi hr⟩
  exact ⟨_, exec_extStoreConditional_held x s pa hi hr hl,
    fun i hi => Memory.read_writeRotated_inside s.mem wf pa s.acc i hi,
    fun a' ha => Memory.read_writeRotated_outside s.mem wf pa s.acc a' ha, rfl⟩

/-- Settles O43: a load-link leaves the reservation that the first store-conditional asks for, and that one clears it
before the second. -/
theorem oneStoreConditionalPerLoadLink : Obligations.OneStoreConditionalPerLoadLink := by
  rintro x s t u hll hsc ⟨v, hv⟩ ht ⟨pa, hpa⟩ hu
  have linked := Host.Outcome.next.inj (ht.symm.trans (exec_extLoadLink x s v hll hv))
  have held : t.reservation = some (blockOf (t.readGpr x)) := by rw [linked]; rfl
  have allowed : t.implements (digitNumber 0x00b#12 x) = true := by
    rw [s.implements_of_params t (by rw [linked]; rfl), hsc]
  obtain rfl := Host.Outcome.next.inj (hu.symm.trans (exec_extStoreConditional_held x t pa allowed held hpa))
  exact ⟨rfl, exec_extStoreConditional_lost x _ allowed nofun⟩

/-! ## The step as an execution -/

/-- R69: the sixteen instructions without operand are well formed. -/
theorem miscTable_wellFormed : ∀ k : Fin 16, miscTable[k].wellFormed = true := by decide

/-- R70: every first byte selects a well-formed instruction. -/
theorem decodeFirst_wellFormed (b0 : Byte) (imm : Imm) : (decodeFirst b0 imm).wellFormed = true := by
  have row (k : Fin 16) (arg : BitVec 4) : (opTable[k] arg imm).wellFormed = true := by
    fin_cases k
    · exact miscTable_wellFormed arg.toFin
    all_goals rfl
  exact row (opOf b0) (argOf b0)

/-- R64: the byte strings that are one instruction. -/
theorem decode_eq_ok_nil (bytes : List Byte) (i : Instr) (h : decode bytes = .ok (i, [])) :
    (∃ b0, bytes = [b0] ∧ b0.msb = false ∧ i = decodeFirst b0 0) ∨
      ∃ b0 b1 b2, bytes = [b0, b1, b2] ∧ b0.msb = true ∧ i = decodeFirst b0 (immOf b1 b2) := by
  match bytes with
  | [] => cases h
  | b0 :: rest =>
    cases hm : b0.msb
    · simp only [decode, hm, Bool.false_eq_true, if_false] at h
      cases h
      exact .inl ⟨b0, rfl, hm, rfl⟩
    · match rest with
      | [] | [_] => simp [decode, hm] at h
      | b1 :: b2 :: rest' =>
        simp only [decode, hm, if_true] at h
        cases h
        exact .inr ⟨b0, b1, b2, rfl, hm, rfl⟩

/-- Settles O50: the fetch reads the bytes the decoder is given. -/
theorem stepRunsTheDecodedInstruction : Obligations.StepRunsTheDecodedInstruction := by
  intro s bytes i hr hh hd hf
  have runs (j : Instr) (hj : s.fetchInstr = .ok j) : step s = exec j s := by simp [step, hr, hh, hj]
  rcases decode_eq_ok_nil bytes i hd with ⟨b0, rfl, hm, rfl⟩ | ⟨b0, b1, b2, rfl, hm, rfl⟩
  · have f0 : s.fetchByte s.pc = .ok b0 := by simpa using hf 0 b0 rfl
    exact ⟨decodeFirst_wellFormed _ _, runs _ (by simp [State.fetchInstr, f0, hm])⟩
  · have f0 : s.fetchByte s.pc = .ok b0 := by simpa using hf 0 b0 rfl
    have f1 : s.fetchByte (s.pc + 1#64) = .ok b1 := hf 1 b1 rfl
    have f2 : s.fetchByte (s.pc + 2#64) = .ok b2 := hf 2 b2 rfl
    exact ⟨decodeFirst_wellFormed _ _, runs _ (by simp [State.fetchInstr, State.fetchImm, f0, f1, f2, hm])⟩

end Sys2Proof.Machine
end

section
/-! SUPPORT. Where the bytes of a rotated access lie, and what `ld` and `st` do at an address that is located. -/
namespace Sys2Proof.Machine

/-! ## The bytes of a rotated access, as numbers -/

/-- R37: the address of byte `i` of a rotated access. -/
theorem rotatedByte_toNat (a : Word) (i : Nat) :
    (blockOf a + BitVec.ofNat 64 ((rotCount a + i) % 8)).toNat = a.toNat / 8 * 8 + (a.toNat % 8 + i) % 8 := by
  rw [blockOf_add_toNat a _ (Nat.mod_lt _ (by decide)), rotCount_eq]

/-- Settles O11: the address of byte `i` of the read, as a number. -/
theorem rotatedReadBytes : Obligations.RotatedReadBytes := by
  intro m a i hi
  rw [wordByte_readRotated m a i hi, rotatedByte_toNat]

/-- R3: a word is its eight bytes. -/
theorem eq_of_wordByte_eq (v w : Word) (h : ∀ i, i < 8 → wordByte v i = wordByte w i) : v = w := by
  refine BitVec.eq_of_getLsbD_eq fun j hj => ?_
  have place : j = 8 * (j / 8) + j % 8 := by omega
  have low : j % 8 < 8 := Nat.mod_lt _ (by decide)
  rw [place, ← getLsbD_wordByte v _ _ low, ← getLsbD_wordByte w _ _ low, h (j / 8) (by omega)]

/-- R39: byte `i` of the value after a rotated write. -/
theorem Memory.read_writeRotated_byte (m : List Host.Cell) (hm : Memory.wf m) (a v : Word) (i : Nat) (hi : i < 8) :
    Memory.read (Memory.writeRotated m a v) (a.toNat / 8 * 8 + (a.toNat % 8 + i) % 8) = wordByte v i := by
  rw [← rotatedByte_toNat, Memory.read_writeRotated_inside m hm a v i hi]

/-- R39: a rotated write changes nothing at an address, in the address space or not, of another block. -/
theorem Memory.read_writeRotated_of_block_ne (m : List Host.Cell) (hm : Memory.wf m) (a v : Word) (b : Nat)
    (h : b / 8 ≠ a.toNat / 8) : Memory.read (Memory.writeRotated m a v) b = Memory.read m b := by
  refine Memory.read_writeBlock_outside m hm _ _ b fun i hi e => h ?_
  rw [e, blockOf_add_toNat a i hi]
  omega

/-- R37, R39: what a rotated write leaves for a rotated read in the same block. -/
theorem Memory.readRotated_writeRotated (m : List Host.Cell) (hm : Memory.wf m) (a a' v : Word)
    (h : a'.toNat / 8 = a.toNat / 8) :
    Memory.readRotated (Memory.writeRotated m a v) a' = v.rotateRight (8 * ((a' - a).toNat % 8)) := by
  have apart : (a.toNat % 8 + (a' - a).toNat % 8) % 8 = a'.toNat % 8 := by
    have := a.isLt
    rw [BitVec.toNat_sub]
    omega
  refine eq_of_wordByte_eq _ _ fun i hi => ?_
  have hd : (a' - a).toNat % 8 < 8 := Nat.mod_lt _ (by decide)
  generalize (a' - a).toNat % 8 = d at apart hd ⊢
  have same_byte : a'.toNat / 8 * 8 + (a'.toNat % 8 + i) % 8 = a.toNat / 8 * 8 + (a.toNat % 8 + (d + i) % 8) % 8 := by
    omega
  rw [wordByte_readRotated _ a' i hi, rotatedByte_toNat, same_byte,
    Memory.read_writeRotated_byte m hm a v _ (Nat.mod_lt _ (by decide)), wordByte_rotateRight v d i hd hi]

/-- Settles O12: the bytes written, the bytes of other blocks, and the read back, one lemma each. -/
theorem rotatedWriteThenRead : Obligations.RotatedWriteThenRead := fun m a v hm =>
  ⟨Memory.read_writeRotated_byte m hm a v, Memory.read_writeRotated_of_block_ne m hm a v,
    fun a' h => Memory.readRotated_writeRotated m hm a a' v h⟩

/-! ## Load and store -/

/-- R146, U11: an occasion on which the reservation may be lost changes no other field but the count of free values. -/
theorem State.mayLoseReservation_eq (s : State) :
    s.mayLoseReservation = { s with reservation := s.mayLoseReservation.reservation,
                                    freeCount := s.mayLoseReservation.freeCount } := by
  rcases s.mayLoseReservation_cases with ⟨_, h⟩ | ⟨b, _, h⟩
  · rw [h]
  · rw [h]
    rfl

theorem State.mayLoseReservation_keptOrLost (s : State) : ReservationKeptOrLost s s.mayLoseReservation :=
  ⟨s.mayLoseReservation_reservation, fun hr => by rw [s.mayLoseReservation_of_none hr]⟩

/-- R118: a load whose address is located. -/
theorem exec_ld_of_locate (x : Reg) (imm : Imm) (s : State) (pa : Word)
    (h : s.locate .read (s.effAddr x imm) = .ok pa) :
    exec (.ld x imm) s =
      .next ((s.mayLoseReservation.setAcc (Memory.readRotated s.mem pa)).setPc (s.nextPc 3)) := by
  simp [exec, execLd, s.load_of_locate _ pa h]

/-- R119: a store whose address is located. -/
theorem exec_st_of_locate (x : Reg) (imm : Imm) (s : State) (pa : Word)
    (h : s.locate .write (s.effAddr x imm) = .ok pa) :
    exec (.st x imm) s =
      .next ((s.mayLoseReservation.setMem (Memory.writeRotated s.mem pa s.acc)).setPc (s.nextPc 3)) := by
  simp [exec, execSt, s.store_of_locate _ pa _ h]

/-- Settles O25: the load is the rotated read of the block that is located. -/
theorem loadReadsTheRotatedBlock : Obligations.LoadReadsTheRotatedBlock := by
  intro x imm s pa h
  refine ⟨_, exec_ld_of_locate x imm s pa h, fun i hi => wordByte_readRotated s.mem pa i hi,
    fun a => congrArg (Memory.read · a.toNat) s.mayLoseReservation_mem, s.mayLoseReservation_keptOrLost, ?_⟩
  exact congrArg (fun u => (u.setAcc (Memory.readRotated s.mem pa)).setPc (s.nextPc 3)) s.mayLoseReservation_eq

/-- Settles O26: the store is the rotated write of the block that is located. -/
theorem storeWritesTheRotatedBlock : Obligations.StoreWritesTheRotatedBlock := by
  intro x imm s pa wf h
  refine ⟨_, exec_st_of_locate x imm s pa h, fun i hi => Memory.read_writeRotated_inside s.mem wf pa s.acc i hi,
    fun a' ha => Memory.read_writeRotated_outside s.mem wf pa s.acc a' ha, s.mayLoseReservation_keptOrLost, ?_⟩
  exact congrArg (fun u => (u.setMem (Memory.writeRotated s.mem pa s.acc)).setPc (s.nextPc 3)) s.mayLoseReservation_eq

end Sys2Proof.Machine
end

section
/-! SUPPORT. Where an access goes and how the instruction ends whose first access it is; the fetch without translation. -/
namespace Sys2Proof.Machine

/-! ## Where an access goes -/

/-- R46: `MEM_MAP` as a list of runs of blocks. -/
theorem State.backed_iff (s : State) (a : Word) :
    s.backed a = true ↔ ∃ r ∈ s.params.memMap, r.first ≤ a.toNat / 8 ∧ a.toNat / 8 < r.first + r.count := by
  simp [State.backed, Region.holds]

/-- R47: the I/O region. -/
theorem State.inIoRegion_iff (s : State) (a : Word) :
    s.inIoRegion a = true ↔ s.params.profile = .extended ∧ 0xffff_0000_0000_0000 ≤ a.toNat := by
  cases h : s.params.profile with
  | base => simp [State.inIoRegion, h]
  | extended =>
    simp only [State.inIoRegion, h, true_and]
    exact decide_eq_true_iff

/-- R46: an access outside the I/O region to a block in `MEM_MAP` goes to its physical address. -/
theorem State.mapped_of_backed (s : State) (va pa : Word) (hio : s.inIoRegion pa = false) (hb : s.backed pa = true) :
    s.mapped va pa = .ok pa := by
  simp [State.mapped, hio, hb]

/-- R184: outside the I/O region a block that is not in `MEM_MAP` stops the access. -/
theorem State.mapped_of_not_backed (s : State) (va pa : Word) (hio : s.inIoRegion pa = false)
    (hb : s.backed pa = false) : s.mapped va pa = .error (.unmapped va) := by
  simp [State.mapped, hio, hb]

/-- R47, U20: the I/O region stops the access, whatever `MEM_MAP` holds. -/
theorem State.mapped_of_io (s : State) (va pa : Word) (hio : s.inIoRegion pa = true) :
    s.mapped va pa = .error (.ioRegion va) := by
  simp [State.mapped, hio]

/-- R49, R57: an access that is not translated goes to its own address. -/
theorem State.locate_untranslated (s : State) (k : Access) (va : Word) (h : s.translated k s.privilege = false) :
    s.locate k va = s.mapped va va := by
  simp [State.locate, State.locateWith, h]

/-- R55: a translated access goes where the TLB translates it to. -/
theorem State.locate_of_translate (s : State) (k : Access) (va pa : Word) (h : s.translated k s.privilege = true)
    (ht : s.translate k s.privilege va = .ok pa) : s.locate k va = s.mapped va pa := by
  simp [State.locate, State.locateWith, h, ht]

/-- R55, R56: a translated access stops as its translation does. -/
theorem State.locate_of_translate_error (s : State) (k : Access) (va : Word) (e : Stop)
    (h : s.translated k s.privilege = true) (ht : s.translate k s.privilege va = .error e) :
    s.locate k va = .error e := by
  simp [State.locate, State.locateWith, h, ht]

/-- R182, R184: an access that is not located ends every instruction whose first access it is. -/
theorem accessEnds_of_locate (s : State) (k : Access) (va : Word) (e : Stop) (h : s.locate k va = .error e) :
    AccessEnds s k va e (s.stop e) :=
  ⟨h, fun i hi => exec_of_firstAccess s k va e h i hi⟩

/-- Settles O27: the access is located where `MEM_MAP` and the I/O region let its own address be. -/
theorem untranslatedAccessNeedsABackedBlock : Obligations.UntranslatedAccessNeedsABackedBlock := by
  intro s va
  refine ⟨s.backed_iff va, fun k hk => ?_⟩
  have own : s.locate k va = s.mapped va va := s.locate_untranslated k va hk
  refine ⟨fun below => ?_, fun hp above => ?_⟩
  · have hio : s.inIoRegion va = false := by
      rw [Bool.eq_false_iff, ne_eq, s.inIoRegion_iff]
      exact fun ⟨hp, above⟩ => absurd (below hp) (Nat.not_lt.mpr above)
    exact ⟨fun hb => own.trans (s.mapped_of_backed va va hio hb),
      fun hb => accessEnds_of_locate s k va _ (own.trans (s.mapped_of_not_backed va va hio hb))⟩
  · have hio : s.inIoRegion va = true := (s.inIoRegion_iff va).mpr ⟨hp, above⟩
    exact accessEnds_of_locate s k va _ (own.trans (s.mapped_of_io va va hio))

/-! ## Translation -/

/-- R49: no access is translated in BASE. -/
theorem State.extended_of_translated (s : State) (k : Access) (p : Privilege) (h : s.translated k p = true) :
    s.params.profile = .extended := by
  cases hp : s.params.profile with
  | base => simp [State.translated, hp] at h
  | extended => rfl

/-- R52: the six permissions with the bit of an entry that gives each. -/
theorem permits_eq_getLsbD (e : Word) (k : Access) (p : Privilege) (bit : Nat)
    (h : (p, k, bit) ∈ [(Privilege.supervisor, Access.read, 6), (.supervisor, .write, 5), (.supervisor, .execute, 4),
      (.user, .read, 2), (.user, .write, 1), (.user, .execute, 0)]) : permits e k p = e.getLsbD bit := by
  simp only [List.mem_cons, Prod.mk.injEq, List.not_mem_nil, or_false] at h
  rcases h with ⟨rfl, rfl, rfl⟩ | ⟨rfl, rfl, rfl⟩ | ⟨rfl, rfl, rfl⟩ | ⟨rfl, rfl, rfl⟩ | ⟨rfl, rfl, rfl⟩ |
    ⟨rfl, rfl, rfl⟩ <;> rfl

/-- R52, R53: the form of an entry. -/
theorem entryFormed_iff (e : Word) :
    entryFormed e = true ↔ e.getLsbD 11 = true ∧ e.getLsbD 7 = false ∧ e.getLsbD 3 = false := by
  simp [entryFormed, and_assoc]

/-- R57: a page that no entry maps is a miss (log entry 21). -/
theorem State.translate_of_none (s : State) (k : Access) (p : Privilege) (va : Word) (h : s.tlbFind va = none) :
    s.translate k p va = .error (.tlbMiss va) := by
  simp [State.translate, h]

/-- R53: an entry of another form than R52 gives translates nothing (log entry 22). -/
theorem State.translate_of_malformed (s : State) (k : Access) (p : Privilege) (va e : Word)
    (h : s.tlbFind va = some e) (hf : entryFormed e = false) :
    s.translate k p va = .error (.malformedEntry va) := by
  simp [State.translate, h, hf]

/-- R56: an entry that does not permit the access makes it a violation. -/
theorem State.translate_of_forbidden (s : State) (k : Access) (p : Privilege) (va e : Word)
    (h : s.tlbFind va = some e) (hf : entryFormed e = true) (hp : permits e k p = false) :
    s.translate k p va = .error (.trap (.protection va)) := by
  simp [State.translate, h, hf, hp]

/-- R55: an entry that permits the access translates it. -/
theorem State.translate_of_permitted (s : State) (k : Access) (p : Privilege) (va e : Word)
    (h : s.tlbFind va = some e) (hf : entryFormed e = true) (hp : permits e k p = true) :
    s.translate k p va = .ok (physicalOf e va) := by
  simp [State.translate, h, hf, hp]

/-- Settles O28: the access is located as the entry of its page translates it, and then as `MEM_MAP` and the I/O region
let the physical address be. -/
theorem translatedAccessFollowsTheTlbEntry : Obligations.TranslatedAccessFollowsTheTlbEntry := by
  intro s va p k bit level listed on
  obtain rfl : p = s.privilege := level
  have stops (e : Stop) (ht : s.translate k s.privilege va = .error e) : AccessEnds s k va e (s.stop e) :=
    accessEnds_of_locate s k va e (s.locate_of_translate_error k va e on ht)
  refine ⟨fun miss => stops _ (s.translate_of_none k _ va miss), fun e pa found hpa => ⟨fun bad => ?_, ?_⟩⟩
  · have malformed : entryFormed e = false := by
      rw [Bool.eq_false_iff, ne_eq, entryFormed_iff]
      rintro ⟨h11, h7, h3⟩
      rw [h11, h7, h3] at bad
      simp at bad
    exact stops _ (s.translate_of_malformed k _ va e found malformed)
  · intro h11 h7 h3
    have formed : entryFormed e = true := (entryFormed_iff e).mpr ⟨h11, h7, h3⟩
    rw [← permits_eq_getLsbD e k s.privilege bit listed]
    refine ⟨fun hp => stops _ (s.translate_of_forbidden k _ va e found formed hp), fun hp => ?_⟩
    obtain rfl : pa = physicalOf e va := BitVec.eq_of_toNat_eq (hpa.trans (physicalOf_toNat e va).symm)
    have goes : s.locate k va = s.mapped va (physicalOf e va) :=
      s.locate_of_translate k va _ on (s.translate_of_permitted k _ va e found formed hp)
    have outside (below : (physicalOf e va).toNat < 0xffff_0000_0000_0000) : s.inIoRegion (physicalOf e va) = false := by
      rw [Bool.eq_false_iff, ne_eq, s.inIoRegion_iff]
      exact fun ⟨_, above⟩ => absurd below (Nat.not_lt.mpr above)
    refine ⟨fun below hb => goes.trans (s.mapped_of_backed va _ (outside below) hb),
      fun below hb => accessEnds_of_locate s k va _ (goes.trans (s.mapped_of_not_backed va _ (outside below) hb)),
      fun above => accessEnds_of_locate s k va _ (goes.trans (s.mapped_of_io va _ ?_))⟩
    exact (s.inIoRegion_iff _).mpr ⟨s.extended_of_translated k _ on, above⟩

/-! ## The fetch without translation -/

/-- R41: without translation the byte of a backed block is fetched. -/
theorem State.fetchByte_of_backed (s : State) (a : Word) (ht : s.translated .execute s.privilege = false)
    (hio : s.inIoRegion a = false) (hb : s.backed a = true) : s.fetchByte a = .ok (s.memByte a) := by
  simp [State.fetchByte, s.locate_untranslated .execute a ht, s.mapped_of_backed a a hio hb]

/-- R184: without translation the byte of a block that is not backed stops the fetch. -/
theorem State.fetchByte_of_not_backed (s : State) (a : Word) (ht : s.translated .execute s.privilege = false)
    (hio : s.inIoRegion a = false) (hb : s.backed a = false) : s.fetchByte a = .error (.unmapped a) := by
  simp [State.fetchByte, s.locate_untranslated .execute a ht, s.mapped_of_not_backed a a hio hb]

/-- R15: with no interrupt to take and not halted, the step executes the instruction that is fetched. -/
theorem step_of_fetch_ok (s : State) (i : Instr) (hr : s.received = none) (hh : s.halted = false)
    (h : s.fetchInstr = .ok i) : step s = exec i s := by
  simp [step, hr, hh, h]

/-- R182, R184: likewise, a fetch that stops ends the step as it stops. -/
theorem step_of_fetch_error (s : State) (e : Stop) (hr : s.received = none) (hh : s.halted = false)
    (h : s.fetchInstr = .error e) : step s = s.stop e := by
  simp [step, hr, hh, h]

/-- R64: an instruction whose first byte cannot be fetched stops there. -/
theorem State.fetchInstr_of_first_error (s : State) (e : Stop) (h : s.fetchByte s.pc = .error e) :
    s.fetchInstr = .error e := by
  simp only [State.fetchInstr, h]

/-- R63, R64: a first byte below `80` is the whole instruction. -/
theorem State.fetchInstr_short (s : State) (b0 : Byte) (h : s.fetchByte s.pc = .ok b0) (hm : b0.msb = false) :
    s.fetchInstr = .ok (decodeFirst b0 0) := by
  simp [State.fetchInstr, h, hm]

/-- R63, R64: after a first byte from `80` up the fetch stops as that of the immediate does. -/
theorem State.fetchInstr_of_imm_error (s : State) (b0 : Byte) (e : Stop) (h : s.fetchByte s.pc = .ok b0)
    (hm : b0.msb = true) (hi : s.fetchImm = .error e) : s.fetchInstr = .error e := by
  simp [State.fetchInstr, h, hm, hi]

/-- R64: the immediate stops at its low byte when that cannot be fetched. -/
theorem State.fetchImm_of_low_error (s : State) (e : Stop) (h : s.fetchByte (s.pc + 1) = .error e) :
    s.fetchImm = .error e := by
  simp only [State.fetchImm, h]

/-- R64: the immediate stops at its high byte when only the low one can be fetched. -/
theorem State.fetchImm_of_high_error (s : State) (b1 : Byte) (e : Stop) (h1 : s.fetchByte (s.pc + 1) = .ok b1)
    (h2 : s.fetchByte (s.pc + 2) = .error e) : s.fetchImm = .error e := by
  simp only [State.fetchImm, h1, h2]

/-- Settles O51: the fetch stops at the first byte that is not backed, and asks for a second only after a first byte
from `80` up. -/
theorem fetchNamesTheMissingByte : Obligations.FetchNamesTheMissingByte := by
  intro s hr hh ht io0 io1 io2
  have first (hb : s.backed s.pc = true) : s.fetchByte s.pc = .ok (s.memByte s.pc) :=
    s.fetchByte_of_backed _ ht io0 hb
  have is_long (h : 0x80 ≤ (s.memByte s.pc).toNat) : (s.memByte s.pc).msb = true := by
    simpa [BitVec.msb_eq_decide] using h
  refine ⟨fun hb => ?_, fun hb short => ?_, fun hb long hb1 => ?_, fun hb long hb1 hb2 => ?_⟩
  · have stopped := s.fetchByte_of_not_backed _ ht io0 hb
    exact step_of_fetch_error s _ hr hh (s.fetchInstr_of_first_error _ stopped)
  · have is_short : (s.memByte s.pc).msb = false := by simpa [BitVec.msb_eq_decide] using short
    exact step_of_fetch_ok s _ hr hh (s.fetchInstr_short _ (first hb) is_short)
  · have stopped := s.fetchImm_of_low_error _ (s.fetchByte_of_not_backed _ ht io1 hb1)
    exact step_of_fetch_error s _ hr hh (s.fetchInstr_of_imm_error _ _ (first hb) (is_long long) stopped)
  · have stopped := s.fetchImm_of_high_error _ _ (s.fetchByte_of_backed _ ht io1 hb1)
      (s.fetchByte_of_not_backed _ ht io2 hb2)
    exact step_of_fetch_error s _ hr hh (s.fetchInstr_of_imm_error _ _ (first hb) (is_long long) stopped)

end Sys2Proof.Machine
end

section
/-! SUPPORT. Every event of an instruction or of a fetch is taken as an exception, and what entry for it changes. -/
namespace Sys2Proof.Machine

/-! ## The events of instructions -/

/-- R92, R130: `ext` is the action that `sr` names. -/
theorem exec_ext_of_decodeAction (s : State) (i : Instr) (hw : decodeAction s.sr = .ok i) : exec .ext s = exec i s := by
  have action : i.actionNumber ≠ none := decodeAction_isAction _ i hw
  simp only [exec, execExt, hw]
  cases i with
  | extDataFence | extInstructionFence | extMoveFromAur | extMoveToAur | extAtomicAnd | extAtomicOr | extAtomicXor
  | extAtomicAdd | extLoadLink | extStoreConditional | extSystemCall | extHartId | extMoveFromAsr | extMoveToAsr
  | extTlbClearAll | extTlbClear | extTlbGet | extTlbSet | extCheckExtension => rfl
  | _ => exact absurd rfl action

/-- R92, R136: `ext` is an invalid action when `sr` names none. -/
theorem exec_ext_of_decodeAction_error (s : State) (e : DecodeError) (hw : decodeAction s.sr = .error e) :
    exec .ext s = s.raise (.extInvalid s.sr) := by
  simp only [exec, execExt, hw]

/-- R92, R136: an action that is not implemented is invalid. -/
theorem exec_action_not_implemented (i : Instr) (n : ExtNumber) (hn : i.actionNumber = some n) (s : State)
    (hi : s.implements n = false) : exec i s = s.raise (.extInvalid s.sr) := by
  obtain ⟨r, hr⟩ := exec_action_gated i n hn s
  simp [hr, State.gate, hi]

/-- R133: an implemented supervisor-level action without the supervisor bit is privileged. -/
theorem exec_action_privileged (i : Instr) (n : ExtNumber) (hn : i.actionNumber = some n) (s : State)
    (hi : s.implements n = true) (hl : n.supervisorLevel = true) (hs : s.supervisor = false) :
    exec i s = s.raise (.extPriv s.sr) := by
  obtain ⟨r, hr⟩ := exec_action_gated i n hn s
  simp [hr, State.gate, hi, hl, hs]

/-- R141 to R144: an implemented atomic action is the atomic read and write of its operation. -/
theorem exec_atomic (x : Reg) (i : Instr) (n : BitVec 12) (ha : IsAtomic x i n) (s : State)
    (hi : s.implements (digitNumber n x) = true) : ∃ op, exec i s = s.atomic x op := by
  cases ha <;> exact ⟨_, s.gate_user _ x _ hi rfl⟩

/-- R141: an atomic read and write whose read is located and whose write is not ends as the write does. -/
theorem State.atomic_of_write_error (s : State) (x : Reg) (op : Word → Word → Word) (pa : Word) (e : Stop)
    (hr : s.locate .read (s.readGpr x) = .ok pa) (hw : s.locate .write (s.readGpr x) = .error e) :
    s.atomic x op = s.stop e := by
  simp [State.atomic, State.store, s.load_of_locate _ pa hr, hw]

/-- R181, R182: an instruction that raises an event takes it as an exception. -/
theorem exec_of_raisesEvent (s : State) (i : Instr) (c : TrapCause) (h : RaisesEvent s i c) : exec i s = s.raise c := by
  induction h with
  | null | trace => rfl
  | systemCall free hi => exact s.gate_acts _ _ hi nofun
  | unassigned e hw => exact exec_ext_of_decodeAction_error s e hw
  | notImplemented i n hn hi => exact exec_action_not_implemented i n hn s hi
  | privileged i n hn hi hl hs => exact exec_action_privileged i n hn s hi hl hs
  | load x imm va h => exact exec_of_firstAccess s _ _ _ h _ (.load x imm)
  | store x imm va h => exact exec_of_firstAccess s _ _ _ h _ (.store x imm)
  | atomicRead x i n va ha hi h => exact exec_of_firstAccess s _ _ _ h _ (.atomic x i n ha hi)
  | atomicWrite x i n va pa ha hi hr h =>
    obtain ⟨op, hop⟩ := exec_atomic x i n ha s hi
    exact hop.trans (s.atomic_of_write_error x op pa _ hr h)
  | loadLink x va hi h => exact exec_of_firstAccess s _ _ _ h _ (.loadLink x hi)
  | storeConditional x va hi hr h => exact exec_of_firstAccess s _ _ _ h _ (.storeConditional x hi hr)
  | performed i c hw _ ih => exact (exec_ext_of_decodeAction s i hw).trans ih

/-! ## Entry for an event -/

/-- R185: what is recorded of an event is not part of what the table is read with. -/
theorem State.tableEntry_recordTrap (s : State) (c : TrapCause) (n : BitVec 8) :
    (s.recordTrap c).tableEntry n = s.tableEntry n := by
  cases c <;> rfl

/-! R27, R56: `pfar` records a protection violation, and no other register records an event. -/

@[simp] theorem State.recordTrap_params (s : State) (c : TrapCause) : (s.recordTrap c).params = s.params := by
  cases c <;> rfl

@[simp] theorem State.recordTrap_aur (s : State) (c : TrapCause) : (s.recordTrap c).aur = s.aur := by
  cases c <;> rfl

@[simp] theorem State.recordTrap_itr (s : State) (c : TrapCause) : (s.recordTrap c).itr = s.itr := by
  cases c <;> rfl

@[simp] theorem State.recordTrap_asrReserved (s : State) (c : TrapCause) :
    (s.recordTrap c).asrReserved = s.asrReserved := by
  cases c <;> rfl

@[simp] theorem State.recordTrap_pfar (s : State) (c : TrapCause) : (s.recordTrap c).pfar = pfarAfter s c := by
  cases c <;> rfl

/-- R192: with nothing to save, the saves change nothing. -/
theorem State.saveContext_of_nil (s : State) (h : s.params.intSave = []) : s.saveContext = s := by
  simp [State.saveContext, h]

/-- R191: the entry for an event changes what entry may write, and with nothing to save no auxiliary register but
`asr0` and `pfar`. -/
theorem State.recordTrap_entered_enteredFor (s : State) (c : TrapCause) (newPc newSfr : Word) :
    EnteredFor s ((s.recordTrap c).entered newPc newSfr) c newPc newSfr := by
  have frame : EnteredWith s ((s.recordTrap c).entered newPc newSfr) newPc newSfr := by
    cases c <;> exact State.entered_enteredWith _ newPc newSfr
  refine ⟨frame, fun nothing => ?_⟩
  have unsaved : (s.recordTrap c).saveContext = s.recordTrap c := State.saveContext_of_nil _ (by simpa using nothing)
  simp [State.entered, unsaved]

/-- R186, R191: an event with a table entry that can be read enters through it. -/
theorem State.raise_enters (s : State) (n : BitVec 8) (p f : Word) (c : TrapCause) (hn : s.trapNumber c = some n)
    (he : s.tableEntry n = .ok (p, f)) : ∃ t, s.raise c = .next t ∧ EnteredFor s t c p f := by
  have entry : (s.recordTrap c).tableEntry n = .ok (p, f) := (s.tableEntry_recordTrap c n).trans he
  refine ⟨_, ?_, s.recordTrap_entered_enteredFor c p f⟩
  calc s.raise c = (s.recordTrap c).enter n := by simp [State.raise, hn]
    _ = _ := (s.recordTrap c).enter_eq_next n p f entry

/-- Settles O34: the event of the instruction or of the fetch is taken as an exception, which enters the table. -/
theorem trapsEnterThroughTheTable : Obligations.TrapsEnterThroughTheTable := by
  refine ⟨fun s n p f i c h hn he => ?_, fun s n p f va hr hh hf hn he => ?_⟩
  · rw [exec_of_raisesEvent s i c h]
    exact s.raise_enters n p f c hn he
  · rw [step_of_fetch_error s _ hr hh hf]
    exact s.raise_enters n p f _ hn he

end Sys2Proof.Machine
end

section
/-! SUPPORT. What TLB set leaves in the set of the TLB that it writes, and which page it maps. -/
namespace Sys2Proof.Machine

/-! ## TLB set -/

/-- R55, R153: the entry that the lines of a set hold for a tag. -/
def entryFor (lines : List TlbLine) (tag : BitVec 48) : Option Word :=
  (lines.find? fun l => l.tag == tag).map TlbLine.entry

theorem State.tlbFind_eq_entryFor (s : State) (va : Word) : s.tlbFind va = entryFor (s.tlbLines va) (tagOf va) := rfl

theorem entryFor_cons (l : TlbLine) (rest : List TlbLine) (tag : BitVec 48) :
    entryFor (l :: rest) tag = if l.tag = tag then some l.entry else entryFor rest tag := by
  by_cases h : l.tag = tag <;> simp [entryFor, h]

/-- A line that alone has its tag answers to it. -/
theorem entryFor_of_only_line (lines : List TlbLine) (line : TlbLine) (hm : line ∈ lines)
    (hu : ∀ l ∈ lines, l.tag = line.tag → l = line) : entryFor lines line.tag = some line.entry := by
  have found : (lines.find? fun l => l.tag == line.tag).isSome = true :=
    List.find?_isSome.mpr ⟨line, hm, beq_self_eq_true _⟩
  obtain ⟨l, hl⟩ := Option.isSome_iff_exists.mp found
  have tag_eq : l.tag = line.tag := by simpa using List.find?_some hl
  rw [entryFor, hl, hu l (List.mem_of_find?_eq_some hl) tag_eq]
  rfl

/-- R154: the lines of a set with the line of a tag replaced. -/
def replaceLine (lines : List TlbLine) (line : TlbLine) : List TlbLine :=
  lines.map fun l => if l.tag == line.tag then line else l

theorem replaceLine_cons (l : TlbLine) (rest : List TlbLine) (line : TlbLine) :
    replaceLine (l :: rest) line = (if l.tag = line.tag then line else l) :: replaceLine rest line := by
  simp [replaceLine]

theorem entryFor_replaceLine_same (lines : List TlbLine) (line : TlbLine) (h : ∃ l ∈ lines, l.tag = line.tag) :
    entryFor (replaceLine lines line) line.tag = some line.entry := by
  obtain ⟨l, hl, ht⟩ := h
  refine entryFor_of_only_line _ _ (List.mem_map.mpr ⟨l, hl, by simp [ht]⟩) fun l' hl' ht' => ?_
  obtain ⟨k, _, rfl⟩ := List.mem_map.mp hl'
  by_cases hk : k.tag = line.tag
  · simp [hk]
  · simp [hk] at ht'

theorem entryFor_replaceLine_ne (lines : List TlbLine) (line : TlbLine) (tag : BitVec 48) (h : tag ≠ line.tag) :
    entryFor (replaceLine lines line) tag = entryFor lines tag := by
  induction lines with
  | nil => rfl
  | cons l rest ih =>
    rw [replaceLine_cons, entryFor_cons, entryFor_cons, ih]
    by_cases ht : l.tag = line.tag
    · simp [ht, h.symm]
    · simp [ht]

theorem entryFor_append_same (lines : List TlbLine) (line : TlbLine) (h : ∀ l ∈ lines, l.tag ≠ line.tag) :
    entryFor (lines ++ [line]) line.tag = some line.entry := by
  refine entryFor_of_only_line _ _ (by simp) fun l hl ht => ?_
  rcases List.mem_append.mp hl with hl | hl
  · exact absurd ht (h l hl)
  · exact List.mem_singleton.mp hl

theorem entryFor_append_ne (lines : List TlbLine) (line : TlbLine) (tag : BitVec 48) (h : tag ≠ line.tag) :
    entryFor (lines ++ [line]) tag = entryFor lines tag := by
  simp [entryFor, List.find?_append, h.symm]

theorem entryFor_set_same (lines : List TlbLine) (line : TlbLine) (k : Nat) (hk : k < lines.length)
    (h : ∀ l ∈ lines, l.tag ≠ line.tag) : entryFor (lines.set k line) line.tag = some line.entry := by
  refine entryFor_of_only_line _ _ (List.mem_set hk line) fun l hl ht => ?_
  rcases List.mem_or_eq_of_mem_set hl with hl | rfl
  · exact absurd ht (h l hl)
  · rfl

/-- R50: the lines of the sets of the TLB after the write of one set. -/
theorem State.tlbLines_setTlbSet (s : State) (k : Fin 16) (lines : List TlbLine) (va : Word) :
    (s.setTlbSet k lines).tlbLines va = if tlbSetOf va = k then lines else s.tlbLines va := by
  by_cases hk : tlbSetOf va = k
  · subst hk
    simp [State.tlbLines]
  · rw [if_neg hk]
    exact Vector.getElem_set_ne k.isLt (tlbSetOf va).isLt fun e => hk (Fin.ext e.symm)

/-- R154: where the tag is present, TLB set replaces its line (log entry 37). -/
theorem State.tlbSet_of_present (s : State) (va entry : Word) (h : ∃ l ∈ s.tlbLines va, l.tag = tagOf va) :
    s.tlbSet va entry = s.setTlbSet (tlbSetOf va) (replaceLine (s.tlbLines va) ⟨tagOf va, entry⟩) := by
  have present : (s.tlbLines va).any (fun l => l.tag == tagOf va) = true := by simpa using h
  simp only [State.tlbSet, present, if_true]
  rfl

/-- R154: where the tag is absent and a way is free, the line takes it. -/
theorem State.tlbSet_of_free (s : State) (va entry : Word) (h : ∀ l ∈ s.tlbLines va, l.tag ≠ tagOf va)
    (hl : (s.tlbLines va).length < s.params.tlbWays) :
    s.tlbSet va entry = s.setTlbSet (tlbSetOf va) (s.tlbLines va ++ [⟨tagOf va, entry⟩]) := by
  have absent : (s.tlbLines va).any (fun l => l.tag == tagOf va) = false := by simpa using h
  simp [State.tlbSet, absent, hl]

/-- R154: where the tag is absent and no way is free, the line takes the place of another (log entry 11). -/
theorem State.tlbSet_of_full (s : State) (va entry : Word) (h : ∀ l ∈ s.tlbLines va, l.tag ≠ tagOf va)
    (hl : ¬(s.tlbLines va).length < s.params.tlbWays) :
    s.tlbSet va entry = (s.setTlbSet (tlbSetOf va) ((s.tlbLines va).set
      (Config.tlbEvict s.freeCount % (s.tlbLines va).length) ⟨tagOf va, entry⟩)).drawn := by
  have absent : (s.tlbLines va).any (fun l => l.tag == tagOf va) = false := by simpa using h
  simp [State.tlbSet, absent, hl]

/-- R55: a page is mapped when a line of its set has its tag. -/
theorem State.tlbFind_isSome_iff (s : State) (va : Word) :
    (s.tlbFind va).isSome = true ↔ ∃ l ∈ s.tlbLines va, l.tag = tagOf va := by
  simp [State.tlbFind]

/-- R154: what a TLB set leaves in the set of the TLB that the address is in. The entry stands under its tag, and where
the tag was present or a way was free every other tag keeps what it had. -/
theorem State.tlbSet_spec (s : State) (va entry : Word) (hw : 1 ≤ s.params.tlbWays) :
    ∃ lines count,
      s.tlbSet va entry = { s.setTlbSet (tlbSetOf va) lines with freeCount := count } ∧
      entryFor lines (tagOf va) = some entry ∧
      ((s.tlbFind va).isSome = true ∨ (s.tlbLines va).length < s.params.tlbWays →
        ∀ tag, tag ≠ tagOf va → entryFor lines tag = entryFor (s.tlbLines va) tag) := by
  rw [s.tlbFind_isSome_iff]
  by_cases present : ∃ l ∈ s.tlbLines va, l.tag = tagOf va
  · exact ⟨_, s.freeCount, s.tlbSet_of_present va entry present,
      entryFor_replaceLine_same _ ⟨tagOf va, entry⟩ present,
      fun _ tag => entryFor_replaceLine_ne _ ⟨tagOf va, entry⟩ tag⟩
  · have absent : ∀ l ∈ s.tlbLines va, l.tag ≠ tagOf va := fun l hl ht => present ⟨l, hl, ht⟩
    by_cases free : (s.tlbLines va).length < s.params.tlbWays
    · exact ⟨_, s.freeCount, s.tlbSet_of_free va entry absent free,
        entryFor_append_same _ ⟨tagOf va, entry⟩ absent, fun _ tag => entryFor_append_ne _ ⟨tagOf va, entry⟩ tag⟩
    · have chosen : Config.tlbEvict s.freeCount % (s.tlbLines va).length < (s.tlbLines va).length :=
        Nat.mod_lt _ (by omega)
      exact ⟨_, s.freeCount + 1, s.tlbSet_of_full va entry absent free,
        entryFor_set_same _ ⟨tagOf va, entry⟩ _ chosen absent,
        fun h => absurd h (not_or.mpr ⟨present, free⟩)⟩

/-- R50, R55: the entry of an address after the write of one set of the TLB. -/
theorem State.tlbFind_setTlbSet (s : State) (k : Fin 16) (lines : List TlbLine) (va : Word) :
    (s.setTlbSet k lines).tlbFind va =
      if tlbSetOf va = k then entryFor lines (tagOf va) else s.tlbFind va := by
  rw [State.tlbFind_eq_entryFor, s.tlbLines_setTlbSet]
  split <;> rfl

/-- Settles O48: an address of another set asks lines that are as they were, and one of the same set and another page
asks for another tag. -/
theorem tlbSetMapsThePage : Obligations.TlbSetMapsThePage := by
  intro x s hi hs hw
  obtain ⟨lines, count, same_but, maps, keeps⟩ := s.tlbSet_spec (s.readGpr x) s.acc hw
  refine ⟨(s.tlbSet (s.readGpr x) s.acc).setPc (s.nextPc 1), s.gate_supervisor _ x _ hi hs, ?_⟩
  rw [same_but]
  have find := s.tlbFind_setTlbSet (tlbSetOf (s.readGpr x)) lines
  refine ⟨fun va page => ?_, fun va other => (find va).trans (if_neg other), fun room va page => ?_, rfl⟩
  · obtain ⟨same_set, same_tag⟩ := (samePage_iff va (s.readGpr x)).mp page
    exact (find va).trans (by rw [if_pos same_set, same_tag, maps])
  · refine (find va).trans ?_
    by_cases same_set : tlbSetOf va = tlbSetOf (s.readGpr x)
    · have other_tag : tagOf va ≠ tagOf (s.readGpr x) := fun same_tag =>
        page ((samePage_iff va (s.readGpr x)).mpr ⟨same_set, same_tag⟩)
      have same_lines : s.tlbLines va = s.tlbLines (s.readGpr x) := congrArg (s.tlb[·]) same_set
      rw [if_pos same_set, keeps room _ other_tag, s.tlbFind_eq_entryFor, same_lines]
    · exact if_neg same_set

end Sys2Proof.Machine
end

section
/-! SUPPORT. The action words that name a fence, and what the fences do. -/
namespace Sys2Proof.Machine

/-! ## The fences -/

/-- R131, R136: the leading 16 bits of an action word, in place. -/
theorem and_leading16 (w : Word) : w &&& 0xffff_0000_0000_0000#64 = w.extractLsb' 48 16 ++ 0#48 := by
  have mask : 0xffff_0000_0000_0000#64 = BitVec.allOnes 16 ++ 0#48 := rfl
  refine BitVec.eq_of_getLsbD_eq fun j hj => ?_
  rw [mask, BitVec.getLsbD_and, BitVec.getLsbD_append, BitVec.getLsbD_append, BitVec.getLsbD_allOnes]
  by_cases low : j < 48
  · simp [low]
  · simp [low, show j - 48 < 16 by omega, show 48 + (j - 48) = j by omega]

/-- R136, R137: the words that name a data fence. -/
theorem decodeAction_dataFence (w : Word) (h : w.extractLsb' 48 16 = 0x0010#16) :
    decodeAction w = .ok (.extDataFence (w.extractLsb' 40 8)) := by
  have selected : w &&& 0xffff_0000_0000_0000#64 = 0x0010_0000_0000_0000#64 := by rw [and_leading16, h]; rfl
  simp [decodeAction, actionRows, ActionRow.selects, selected]

/-- R136, R138: the words that name the instruction fence. -/
theorem decodeAction_instructionFence (w : Word) (h : w.extractLsb' 48 16 = 0x0011#16) :
    decodeAction w = .ok .extInstructionFence := by
  have selected : w &&& 0xffff_0000_0000_0000#64 = 0x0011_0000_0000_0000#64 := by rw [and_leading16, h]; rfl
  simp [decodeAction, actionRows, ActionRow.selects, selected]

/-- R137: an implemented data fence only goes on. -/
theorem exec_extDataFence (s : State) (flags : BitVec 8) (hi : s.implements (.two 0x0010#16) = true) :
    exec (.extDataFence flags) s = .next { s with pc := s.pc + 1 } :=
  s.gate_acts _ _ hi nofun

/-- R138: an implemented instruction fence only goes on. -/
theorem exec_extInstructionFence (s : State) (hi : s.implements (.two 0x0011#16) = true) :
    exec .extInstructionFence s = .next { s with pc := s.pc + 1 } :=
  s.gate_acts _ _ hi nofun

/-- Settles O38: `ext` is the fence whose number `sr` holds, whatever its other bits. -/
theorem fencesOnlyAdvance : Obligations.FencesOnlyAdvance := fun s flags =>
  ⟨exec_extDataFence s flags, exec_extInstructionFence s,
    fun hi hn => (exec_ext_of_decodeAction s _ (decodeAction_dataFence s.sr hn)).trans (exec_extDataFence s _ hi),
    fun hi hn =>
      (exec_ext_of_decodeAction s _ (decodeAction_instructionFence s.sr hn)).trans (exec_extInstructionFence s hi)⟩

end Sys2Proof.Machine
end

section
/-! SUPPORT. The decoder and the encoder undo each other (R63 to R71): one equation per length for `decode`, and the
fields that the encoder puts together. -/
namespace Sys2Proof

/-! ## The two lengths -/

/-- R63: a first byte up to `7f` is an instruction of one byte. -/
theorem decode_of_short (b0 : Byte) (rest : List Byte) (h : b0.msb = false) :
    decode (b0 :: rest) = .ok (decodeFirst b0 0, rest) := by
  simp [decode, h]

/-- R63, R71: a first byte from `80` up takes two immediate bytes. -/
theorem decode_of_long (b0 b1 b2 : Byte) (rest : List Byte) (h : b0.msb = true) :
    decode (b0 :: b1 :: b2 :: rest) = .ok (decodeFirst b0 (immOf b1 b2), rest) := by
  simp [decode, h]

/-- R63, R71: a first byte from `80` up without two bytes after it is no instruction. -/
theorem decode_of_long_cut (b0 : Byte) (rest : List Byte) (h : b0.msb = true) (hr : rest.length < 2) :
    decode (b0 :: rest) = .error .immediateMissing := by
  match rest with
  | [] | [_] => simp [decode, h]
  | _ :: _ :: rest' =>
    rw [List.length_cons, List.length_cons] at hr
    omega

/-- R63: the two lengths, as ranges of the first byte. -/
theorem msb_eq_true_iff (b0 : Byte) : b0.msb = true ↔ 0x80 ≤ b0.toNat := by
  rw [BitVec.msb_eq_decide, decide_eq_true_iff]

/-- Settles O3: bit 7 of the first byte chooses the equation for `decode`. -/
theorem firstByteDecidesLength : Obligations.FirstByteDecidesLength := by
  intro b0
  constructor
  · intro hb rest
    have short : b0.msb = false := by
      rw [← Bool.not_eq_true, msb_eq_true_iff]
      omega
    exact ⟨_, decode_of_short b0 rest short⟩
  · intro hb
    have long : b0.msb = true := (msb_eq_true_iff b0).mpr hb
    exact ⟨fun b1 b2 rest => ⟨_, decode_of_long b0 b1 b2 rest long⟩,
      fun rest => decode_of_long_cut b0 rest long⟩

/-! ## Decode of encode -/

/-- R64, R65: the one byte the encoder writes for an operation below `8` decodes by the row of that operation. -/
theorem decode_encodeS (op arg : BitVec 4) (rest : List Byte) (h : op.msb = false) :
    decode (encodeS op arg ++ rest) = .ok (opTable[op.toFin] arg 0, rest) := by
  have short : (firstByte op arg).msb = false := (msb_firstByte op arg).trans h
  rw [← decodeFirst_firstByte]
  exact decode_of_short _ rest short

/-- R64, R67, R71: the three bytes the encoder writes for an operation from `8` up decode by the row of that operation,
with the immediate. -/
theorem decode_encodeL (op arg : BitVec 4) (imm : Imm) (rest : List Byte) (h : op.msb = true) :
    decode (encodeL op arg imm ++ rest) = .ok (opTable[op.toFin] arg imm, rest) := by
  have long : (firstByte op arg).msb = true := (msb_firstByte op arg).trans h
  calc decode (encodeL op arg imm ++ rest) = _ := decode_of_long _ _ _ rest long
    _ = .ok (opTable[op.toFin] arg imm, rest) := by rw [immOf_bytes, decodeFirst_firstByte]

/-- R68, R69: the operation and argument that the encoder writes for an instruction of space `opcode` are those of its
place in the two tables. -/
theorem encode_fields (i : Instr) (hi : i.actionNumber = none) :
    (∃ op arg, encode i = encodeS op arg ∧ op.msb = false ∧ opTable[op.toFin] arg 0 = i) ∨
      ∃ op arg imm, encode i = encodeL op arg imm ∧ op.msb = true ∧ opTable[op.toFin] arg imm = i := by
  cases i with
  | null | trace | halt | ext | mfsr | mtsr | shl | shr | jumpa | calla | ret | retl | mflr | mtlr | pc | nop
  | test | mf | mt | and | or | xor | add => exact .inl ⟨_, _, rfl, rfl, rfl⟩
  | jump | call | ld | st | andi | ori | xori | addi => exact .inr ⟨_, _, _, rfl, rfl, rfl⟩
  | _ => cases hi

/-- Settles O1: the encoder writes the fields of the instruction's place in the tables, and the decoder looks it up
there. -/
theorem decodeOfEncodeIsTheInstruction : Obligations.DecodeOfEncodeIsTheInstruction := by
  intro i rest _ hi
  rcases encode_fields i hi with ⟨op, arg, he, hop, ht⟩ | ⟨op, arg, imm, he, hop, ht⟩
  · rw [he, decode_encodeS op arg rest hop, ht]
  · rw [he, decode_encodeL op arg imm rest hop, ht]

/-! ## Encode of decode -/

/-- R65, R67: a first byte is its two digits. -/
theorem firstByte_digits (b0 : Byte) : firstByte (b0.extractLsb' 4 4) (argOf b0) = b0 :=
  (BitVec.extractLsb'_append_extractLsb'_eq_extractLsb' rfl).trans BitVec.extractLsb'_eq_self

/-- R63: the high bit of the operation is bit 7 of the first byte. -/
theorem msb_op (b0 : Byte) : (b0.extractLsb' 4 4).msb = b0.msb := by
  rw [← msb_firstByte _ (argOf b0), firstByte_digits]

/-- R71: the immediate is written low byte first, as it was read. -/
theorem encodeL_immOf (op arg : BitVec 4) (b1 b2 : Byte) :
    encodeL op arg (immOf b1 b2) = [firstByte op arg, b1, b2] := by
  have low : (immOf b1 b2).extractLsb' 0 8 = b1 := BitVec.extractLsb'_append_eq_right
  have high : (immOf b1 b2).extractLsb' 8 8 = b2 := BitVec.extractLsb'_append_eq_left
  rw [encodeL, low, high]

/-- R69: an entry of the first table is encoded as its place in it. -/
theorem encode_miscTable : ∀ k : Fin 16, encode miscTable[k] = encodeS 0x0 (BitVec.ofFin k) := by decide

/-- R68, R69: an entry of the table of operations is encoded with its place in it and with its argument, and with its
immediate when the place is from `8` up. -/
theorem encode_opTable (op arg : BitVec 4) (imm : Imm) :
    encode (opTable[op.toFin] arg imm) = if op.msb then encodeL op arg imm else encodeS op arg := by
  obtain ⟨k⟩ := op
  fin_cases k
  · exact encode_miscTable arg.toFin
  all_goals rfl

/-- R64, R65: an instruction of one byte is encoded as that byte. -/
theorem encode_decodeFirst_short (b0 : Byte) (imm : Imm) (h : b0.msb = false) : encode (decodeFirst b0 imm) = [b0] := by
  calc encode (decodeFirst b0 imm) = _ := encode_opTable (b0.extractLsb' 4 4) (argOf b0) imm
    _ = encodeS (b0.extractLsb' 4 4) (argOf b0) := by rw [msb_op, h]; rfl
    _ = [b0] := congrArg (fun b => [b]) (firstByte_digits b0)

/-- R64, R67, R71: an instruction of three bytes is encoded as those bytes. -/
theorem encode_decodeFirst_long (b0 b1 b2 : Byte) (h : b0.msb = true) :
    encode (decodeFirst b0 (immOf b1 b2)) = [b0, b1, b2] := by
  calc encode (decodeFirst b0 (immOf b1 b2)) = _ := encode_opTable (b0.extractLsb' 4 4) (argOf b0) (immOf b1 b2)
    _ = encodeL (b0.extractLsb' 4 4) (argOf b0) (immOf b1 b2) := by rw [msb_op, h]; rfl
    _ = [b0, b1, b2] := by rw [encodeL_immOf, firstByte_digits]

/-- Settles O2: the instruction takes one byte or all three, and is encoded as what it took. -/
theorem encodeOfDecodeIsTheBytes : Obligations.EncodeOfDecodeIsTheBytes := by
  intro b0 b1 b2
  cases h : b0.msb with
  | false => exact ⟨_, _, decode_of_short b0 [b1, b2] h, by rw [encode_decodeFirst_short b0 0 h]; rfl⟩
  | true => exact ⟨_, _, decode_of_long b0 b1 b2 [] h, by rw [encode_decodeFirst_long b0 b1 b2 h]; rfl⟩

/-! ## Words of the spec's examples -/

/-- Settles O7: each word by its row of R68, R69 or R136. -/
theorem writtenOutWordsDecode : Obligations.WrittenOutWordsDecode :=
  ⟨rfl, rfl, rfl, rfl, rfl, rfl, rfl⟩

end Sys2Proof
end

section
/-! SUPPORT. The 16-bit chunks of XIMM, and the set of the accumulator told by its sign (R73, R74). -/
namespace Sys2Proof.Machine

/-! ## The chunks of XIMM -/

/-- R73: the digits of a mode: its upper two bits are the number of a chunk. -/
theorem mode_div_four : ∀ m : Mode, m.toNat / 4 = 2 * (m.getLsbD 3).toNat + (m.getLsbD 2).toNat := by decide

/-- R7: every chunk of a repeated bit is that bit repeated. -/
theorem extractLsb'_rep (n start len : Nat) (b : Bool) (h : start + len ≤ n) :
    (rep n b).extractLsb' start len = rep len b := by
  ext i hi
  cases b
  · simp [rep]
  · simp [rep, show start + i < n by omega]

/-- R7: a chunk of one bit repeated, as the two words it can be. -/
theorem rep_sixteen (b : Bool) : rep 16 b = if b then 0xffff#16 else 0x0000#16 := rfl

/-- A chunk of two halves side by side is a chunk of the half it lies in. -/
theorem extractLsb'_halves (hi lo : BitVec 32) (j : Nat) (hj : j < 4) :
    (hi ++ lo).extractLsb' (16 * j) 16 = (if j / 2 = 0 then lo else hi).extractLsb' (16 * (j % 2)) 16 := by
  by_cases low : j < 2
  · rw [BitVec.extractLsb'_append_eq_of_add_le (by omega), if_pos (by omega), Nat.mod_eq_of_lt low]
  · rw [BitVec.extractLsb'_append_eq_of_le (by omega), if_neg (by omega), show 16 * j - 32 = 16 * (j % 2) by omega]

/-- R73: the chunks of the half that holds the immediate. -/
theorem ximmHalf_chunk (m : Mode) (imm : Imm) (k : Nat) (hk : k < 2) :
    (ximmHalf m imm).extractLsb' (16 * k) 16 = if k = (m.getLsbD 2).toNat then imm else rep 16 (m.getLsbD 0) := by
  unfold ximmHalf
  obtain rfl | rfl : k = 0 ∨ k = 1 := by omega
  · cases m.getLsbD 2 <;> exact BitVec.extractLsb'_append_eq_right
  · cases m.getLsbD 2 <;> exact BitVec.extractLsb'_append_eq_left

/-- R73: the chunks of XIMM, by the half they lie in. -/
theorem ximm_chunk (m : Mode) (imm : Imm) (j : Nat) (hj : j < 4) :
    (ximm m imm).extractLsb' (16 * j) 16 =
      if j / 2 = (m.getLsbD 3).toNat then (ximmHalf m imm).extractLsb' (16 * (j % 2)) 16 else rep 16 (m.getLsbD 1) := by
  have fill : (rep 32 (m.getLsbD 1)).extractLsb' (16 * (j % 2)) 16 = rep 16 (m.getLsbD 1) :=
    extractLsb'_rep 32 _ 16 _ (by omega)
  have half : j / 2 = 0 ∨ j / 2 = 1 := by omega
  unfold ximm
  cases m.getLsbD 3 with
  | false =>
    rw [if_neg Bool.false_ne_true, extractLsb'_halves _ _ j hj, ← fill]
    rcases half with h | h <;> rw [h] <;> rfl
  | true =>
    rw [if_pos rfl, extractLsb'_halves _ _ j hj, ← fill]
    rcases half with h | h <;> rw [h] <;> rfl

/-- Settles O8: the half by bit 3 of the mode, the chunk in it by bit 2. -/
theorem ximmChunks : Obligations.XimmChunks := by
  intro m imm j hj
  have half : (2 * (m.getLsbD 3).toNat + (m.getLsbD 2).toNat) / 2 = (m.getLsbD 3).toNat := by
    have := (m.getLsbD 2).toNat_lt
    omega
  have chunk : j = 2 * (m.getLsbD 3).toNat + (m.getLsbD 2).toNat ↔
      j / 2 = (m.getLsbD 3).toNat ∧ j % 2 = (m.getLsbD 2).toNat := by
    have := (m.getLsbD 2).toNat_lt
    omega
  rw [ximm_chunk m imm j hj, ximmHalf_chunk m imm (j % 2) (by omega), mode_div_four, half]
  by_cases h : j / 2 = (m.getLsbD 3).toNat
  · by_cases k : j % 2 = (m.getLsbD 2).toNat
    · simp only [chunk, h, k, and_self, if_true]
    · simp only [chunk, h, k, and_false, if_true, if_false, rep_sixteen]
  · simp only [chunk, h, false_and, if_false, rep_sixteen]

/-! ## The set of the accumulator -/

/-- R74: bits 62 to 0 are all zero in the two words `0` and `-2^63` alone. -/
theorem low63_eq_zero_iff (acc : Word) : acc.extractLsb' 0 63 = 0#63 ↔ acc.toInt = 0 ∨ acc.toInt = -2 ^ 63 := by
  have := acc.isLt
  rw [BitVec.toNat_eq, BitVec.extractLsb'_toNat, BitVec.toInt_eq_toNat_cond, Nat.shiftRight_zero, BitVec.toNat_ofNat]
  split <;> omega

/-- R74: the number of the set of the accumulator, told by sign. -/
theorem accSet_eq (acc : Word) :
    accSet acc = BitVec.ofBool (decide (acc.toInt < 0)) ++
      BitVec.ofBool (!decide (acc.toInt = 0 ∨ acc.toInt = -2 ^ 63)) := by
  unfold accSet
  rw [BitVec.msb_eq_toInt, ← decide_eq_decide.mpr (low63_eq_zero_iff acc)]
  rfl

/-- Settles O9: the four sets are 0, 1, 2 and 3. -/
theorem condHoldsBySign : Obligations.CondHoldsBySign := by
  intro c acc
  have bit (n : BitVec 2) (h : accSet acc = n) : condHolds c acc = c.getLsbD n.toNat := by rw [condHolds, h]
  refine ⟨fun h => bit 0 ?_, fun h => bit 1 ?_, fun h => bit 2 ?_, fun h h' => bit 3 ?_⟩
  · rw [accSet_eq, h]
    rfl
  · rw [accSet_eq, decide_eq_false (by omega), decide_eq_false (by omega)]
    rfl
  · rw [accSet_eq, h]
    rfl
  · rw [accSet_eq, decide_eq_true h', decide_eq_false (by omega)]
    rfl

end Sys2Proof.Machine
end

section
/-! SUPPORT. What instructions do to `sr` and to memory, the instructions of `40_misc.md`, and the entry for an
interrupt. -/
namespace Sys2Proof.Machine

/-! ## The instructions of one byte below `10` -/

/-- Settles O13: the next instruction is at `pc + 1`, and the value moved is read before the write. -/
theorem specialRegisterMoves : Obligations.SpecialRegisterMoves :=
  ⟨⟨rfl, rfl, rfl, rfl, rfl⟩, fun _ => ⟨rfl, rfl, rfl, rfl, rfl⟩⟩

/-- Settles O20: `retl` reads the link register before it writes it. -/
theorem indirectTransfers : Obligations.IndirectTransfers :=
  ⟨rfl, rfl, rfl, rfl, fun _ => ⟨rfl, rfl, rfl, rfl⟩⟩

/-- R95, R96: the shift amount as a number. -/
theorem shiftAmount_eq (acc : Word) : shiftAmount acc = acc.toNat % 64 := by
  simp [shiftAmount]

/-- R95: a left shift multiplies by a power of two, modulo `2^64`. -/
theorem shiftLeft_eq_ofNat (w : Word) (n : Nat) : w <<< n = BitVec.ofNat 64 (w.toNat * 2 ^ n) := by
  apply BitVec.eq_of_toNat_eq
  rw [BitVec.toNat_shiftLeft, Nat.shiftLeft_eq, BitVec.toNat_ofNat]

/-- R96: a logical right shift divides by a power of two. -/
theorem ushiftRight_eq_ofNat (w : Word) (n : Nat) : w >>> n = BitVec.ofNat 64 (w.toNat / 2 ^ n) := by
  rw [← Nat.shiftRight_eq_div_pow, ← BitVec.toNat_ushiftRight, BitVec.ofNat_toNat, BitVec.setWidth_eq]

/-- Settles O16: the two shifts as arithmetic on naturals, by the shift amount as a number. -/
theorem shiftsAreLogical : Obligations.ShiftsAreLogical := by
  refine ⟨rfl, rfl, fun s => ?_⟩
  rw [← shiftAmount_eq, ← shiftLeft_eq_ofNat, ← ushiftRight_eq_ofNat]
  exact ⟨rfl, rfl⟩

/-- R183: the step of a halted processor that no interrupt wakes. -/
theorem step_of_halted (s : State) (hh : s.halted = true) (hr : s.received = none) :
    step s = .fault (.halted s.pc) := by
  simp [step, hr, hh]

/-- Settles O30: with no interrupt to take, the step asks for the halted condition before it fetches. -/
theorem haltCompletesAndStopsTheProcessor : Obligations.HaltCompletesAndStopsTheProcessor :=
  fun s => ⟨rfl, step_of_halted s⟩

/-! ## `ext` and its checks -/

/-- Settles O36: `ext` by the two outcomes of the decoding of `sr`. -/
theorem extPerformsTheActionOfSr : Obligations.ExtPerformsTheActionOfSr :=
  fun s => ⟨exec_ext_of_decodeAction s, exec_ext_of_decodeAction_error s⟩

/-- Settles O37: one lemma for each of the two checks. -/
theorem actionsAreCheckedFirst : Obligations.ActionsAreCheckedFirst :=
  fun i n s hn => ⟨exec_action_not_implemented i n hn s, exec_action_privileged i n hn s⟩

/-- R92, R182: in BASE `ext` ends the run as an invalid action, whether or not `sr` names one. -/
theorem exec_ext_base (s : State) (hp : s.params.profile = .base) :
    exec .ext s = .fault (.trapped (.extInvalid s.sr) s.pc) := by
  cases hw : decodeAction s.sr with
  | error e => rw [exec_ext_of_decodeAction_error s e hw, s.raise_base hp]
  | ok i =>
    obtain ⟨n, hn⟩ := Option.ne_none_iff_exists'.mp (decodeAction_isAction _ i hw)
    rw [exec_ext_of_decodeAction s i hw, exec_action_base i n hn s hp]

/-- Settles O31: no event has a table entry in BASE. -/
theorem baseTrapsEndTheRun : Obligations.BaseTrapsEndTheRun :=
  fun s hp => ⟨s.raise_base hp _, s.raise_base hp _, exec_ext_base s hp⟩

/-! ## Who writes `sr` and memory -/

/-- R182, R191, R192: no exception writes `sr`. -/
theorem State.raise_sr (s t : State) (c : TrapCause) (h : s.raise c = .next t) : t.sr = s.sr :=
  State.raise_keeps State.sr (fun _ _ => rfl) (fun _ => rfl) (fun _ _ => rfl) (fun _ _ => rfl) (fun _ _ _ => rfl)
    (fun _ _ => rfl) (fun _ _ => rfl) (fun _ _ => rfl) (fun _ _ _ => rfl) s t c h

/-- R182, R191, R192: no exception writes memory. -/
theorem State.raise_mem (s t : State) (c : TrapCause) (h : s.raise c = .next t) : t.mem = s.mem :=
  State.raise_keeps State.mem (fun _ _ => rfl) (fun _ => rfl) (fun _ _ => rfl) (fun _ _ => rfl) (fun _ _ _ => rfl)
    (fun _ _ => rfl) (fun _ _ => rfl) (fun _ _ => rfl) (fun _ _ _ => rfl) s t c h

@[simp] theorem State.readAuxIntoAcc_sr (s : State) (defined : Bool) (held : Word) :
    (s.readAuxIntoAcc defined held).sr = s.sr := by
  cases defined <;> rfl

@[simp] theorem State.readAuxIntoAcc_mem (s : State) (defined : Bool) (held : Word) :
    (s.readAuxIntoAcc defined held).mem = s.mem := by
  cases defined <;> rfl

@[simp] theorem State.setAsr_sr (s : State) (x : Fin 16) (v : Word) : (s.setAsr x v).sr = s.sr :=
  s.setAsr_keeps State.sr (fun _ _ => rfl) (fun _ _ => rfl) (fun _ _ => rfl) (fun _ _ _ => rfl) x v

@[simp] theorem State.setAsr_mem (s : State) (x : Fin 16) (v : Word) : (s.setAsr x v).mem = s.mem :=
  s.setAsr_keeps State.mem (fun _ _ => rfl) (fun _ _ => rfl) (fun _ _ => rfl) (fun _ _ _ => rfl) x v

@[simp] theorem State.tlbClear_sr (s : State) (va : Word) : (s.tlbClear va).sr = s.sr := rfl

@[simp] theorem State.tlbClear_mem (s : State) (va : Word) : (s.tlbClear va).mem = s.mem := rfl

@[simp] theorem State.tlbSet_sr (s : State) (va entry : Word) : (s.tlbSet va entry).sr = s.sr := by
  rcases s.tlbSet_cases va entry with h | ⟨_, _, h⟩ | ⟨_, _, h⟩ <;> rw [h] <;> rfl

@[simp] theorem State.tlbSet_mem (s : State) (va entry : Word) : (s.tlbSet va entry).mem = s.mem := by
  rcases s.tlbSet_cases va entry with h | ⟨_, _, h⟩ | ⟨_, _, h⟩ <;> rw [h] <;> rfl

/-- R94, R105: `sr` is as it was unless the instruction is `mtsr`, memory unless it stores. -/
def SrAndMemoryKept (s t : State) (i : Instr) : Prop :=
  (i ≠ .mtsr → t.sr = s.sr) ∧ (NotAStore i → t.mem = s.mem)

theorem SrAndMemoryKept.of_eq {s t : State} {i : Instr} (hsr : t.sr = s.sr) (hmem : t.mem = s.mem) :
    SrAndMemoryKept s t i :=
  ⟨fun _ => hsr, fun _ => hmem⟩

/-- R94, R105, R119, R141, R146: the update of an instruction writes `sr` only for `mtsr`, memory only for a store. -/
theorem ownUpdate_srAndMemoryKept (s t : State) (i : Instr) (h : ownUpdate s t i) : SrAndMemoryKept s t i := by
  cases i with
  | null | trace | ext | extSystemCall => exact h.elim
  | mtsr =>
    rw [show t = _ from h]
    exact ⟨fun hi => absurd rfl hi, fun _ => rfl⟩
  | st =>
    obtain ⟨_, rfl⟩ := h
    exact ⟨fun _ => by simp, fun hi => by simp [NotAStore] at hi⟩
  | extAtomicAnd | extAtomicOr | extAtomicXor | extAtomicAdd =>
    obtain ⟨_, _, _, rfl⟩ := h
    exact ⟨fun _ => by simp, fun hi => by simp [NotAStore] at hi⟩
  | extStoreConditional =>
    refine ⟨fun _ => ?_, fun hi => by simp [NotAStore] at hi⟩
    rcases h with ⟨_, rfl⟩ | rfl <;> rfl
  | halt | mfsr | mf | mt | jumpa | calla | ret | retl | mtlr | nop | extDataFence | extInstructionFence
  | extMoveToAur | extTlbClearAll | extTlbClear | extTlbSet =>
    rw [show t = _ from h]
    exact .of_eq (by simp) (by simp)
  | mflr | pc | test | and | or | xor | add | shl | shr | extHartId | extTlbGet | extCheckExtension
  | andi | ori | xori | addi | jump | ld | extLoadLink =>
    obtain ⟨_, rfl⟩ := h
    exact .of_eq (by simp) (by simp)
  | call => rcases h with ⟨_, _, rfl⟩ | rfl <;> exact .of_eq rfl rfl
  | extMoveFromAur | extMoveFromAsr =>
    obtain ⟨_, _, rfl⟩ := h
    exact .of_eq (by simp) (by simp)
  | extMoveToAsr =>
    obtain ⟨_, rfl⟩ := h
    exact .of_eq (by simp) (by simp)

/-- Settles O14: an exception leaves `sr`, and the action that `ext` performs is never `mtsr`. -/
theorem onlyMtsrWritesSr : Obligations.OnlyMtsrWritesSr := by
  refine ⟨rfl, fun _ => rfl, fun i s t hi h => ?_⟩
  rcases exec_next_cases i s t h with ⟨c, hc⟩ | ⟨j, rfl | ⟨_, hw⟩, hj⟩
  · exact s.raise_sr t c hc
  · exact (ownUpdate_srAndMemoryKept s t j hj).1 hi
  · refine (ownUpdate_srAndMemoryKept s t j hj).1 ?_
    rintro rfl
    exact decodeAction_isAction _ _ hw rfl

/-- Settles O29: an exception leaves memory, and so does the update of the instruction, or of the action that `ext`
performs, when it is no store. -/
theorem memoryWriters : Obligations.MemoryWriters := by
  intro i s t h hi hext
  have kept : t.mem = s.mem := by
    rcases exec_next_cases i s t h with ⟨c, hc⟩ | ⟨j, rfl | ⟨he, hw⟩, hj⟩
    · exact s.raise_mem t c hc
    · exact (ownUpdate_srAndMemoryKept s t j hj).2 hi
    · exact (ownUpdate_srAndMemoryKept s t j hj).2 (hext he j hw)
  exact fun a => congrArg (Memory.read · a.toNat) kept

/-! ## The entry for an interrupt -/

/-- R191: in EXTENDED the first interrupt that is pending is the one received. -/
theorem State.received_of_irq (s : State) (n : BitVec 8) (rest : List (BitVec 8))
    (hp : s.params.profile = .extended) (hq : s.irq = n :: rest) : s.received = some (n, s.setIrq rest) := by
  simp [State.received, hp, hq]

/-- R191: an interrupt that is received is what the step takes. -/
theorem step_of_received (s t : State) (n : BitVec 8) (h : s.received = some (n, t)) : step s = t.enter n := by
  simp [step, h]

/-- R189: the pending interrupts are not part of what the table is read with. -/
theorem State.tableEntry_setIrq (s : State) (rest : List (BitVec 8)) (n : BitVec 8) :
    (s.setIrq rest).tableEntry n = s.tableEntry n := rfl

/-- R191, R192: with nothing to save, entry writes `pc`, `asr0`, the halted condition and, at most, the reservation. -/
theorem State.entered_of_nil (s : State) (newPc newSfr : Word) (h : s.params.intSave = []) :
    s.entered newPc newSfr =
      { s with pc := newPc, sfr := newSfr, halted := false,
               reservation := s.mayLoseReservation.reservation, freeCount := s.mayLoseReservation.freeCount } := by
  rw [State.entered, s.saveContext_of_nil h]
  exact congrArg (fun t => ((t.setPc newPc).setSfr newSfr).setHalted false) s.mayLoseReservation_eq

/-- Settles O33: the interrupt is received before anything else, and its entry changes what every entry does. -/
theorem interruptEntersThroughTheTable : Obligations.InterruptEntersThroughTheTable := by
  intro s n rest hp hq
  have taken : step s = (s.setIrq rest).enter n := step_of_received s _ n (s.received_of_irq n rest hp hq)
  refine ⟨taken, fun p f he => ?_⟩
  have entry : (s.setIrq rest).tableEntry n = .ok (p, f) := (s.tableEntry_setIrq rest n).trans he
  refine ⟨_, taken.trans ((s.setIrq rest).enter_eq_next n p f entry), (s.setIrq rest).entered_enteredWith p f,
    fun nothing => ?_⟩
  rw [(s.setIrq rest).entered_of_nil p f nothing]
  exact ⟨(s.setIrq rest).mayLoseReservation_keptOrLost, rfl⟩

end Sys2Proof.Machine
end

section
/-! SUPPORT. The one byte of a short instruction as a number, and `test`, the moves with a general register and the
register arithmetic of `41_test_move_alu_reg.md`. -/
namespace Sys2Proof.Machine

/-! ## The byte of a short instruction -/

/-- R65: the first byte as a number, the operation its high hex digit and the argument its low one. -/
theorem firstByte_eq_ofNat (op arg : BitVec 4) : firstByte op arg = BitVec.ofNat 8 (16 * op.toNat + arg.toNat) := by
  have digits : (firstByte op arg).toNat = op.toNat * 2 ^ 4 + arg.toNat := toNat_fields op arg
  apply BitVec.eq_of_toNat_eq
  rw [digits, BitVec.toNat_ofNat]
  omega

theorem encodeS_eq_shortCode (op arg : BitVec 4) : encodeS op arg = shortCode op.toNat arg.toNat :=
  congrArg ([·]) (firstByte_eq_ofNat op arg)

/-- R15: a short instruction whose result goes to the accumulator changes that and `pc`. -/
theorem State.accResult_short (s : State) (v : Word) : s.accResult 1 v = .next { s with acc := v, pc := s.pc + 1 } :=
  rfl

/-! ## The register arithmetic -/

/-- Settles O18: each result is one operation on words, which acts bit by bit or, for the sum, modulo `2^64`. -/
theorem registerArithmetic : Obligations.RegisterArithmetic := fun x s =>
  ⟨encodeS_eq_shortCode 0x4 (regField x), encodeS_eq_shortCode 0x5 (regField x),
    encodeS_eq_shortCode 0x6 (regField x), encodeS_eq_shortCode 0x7 (regField x),
    s.acc &&& s.readGpr x, s.acc ||| s.readGpr x, s.acc ^^^ s.readGpr x, s.acc + s.readGpr x,
    s.accResult_short _, s.accResult_short _, s.accResult_short _, s.accResult_short _,
    fun _ => BitVec.getLsbD_and, fun _ => BitVec.getLsbD_or, fun _ => BitVec.getLsbD_xor, BitVec.toNat_add _ _⟩

/-! ## `test` -/

/-- R107: the next state of `test`, by the truth value of its condition. -/
theorem exec_test (c : Cond) (s : State) (b : Bool) (h : condHolds c s.acc = b) :
    exec (.test c) s = .next { s with acc := truthWord b, pc := s.pc + 1 } := by
  rw [← h]
  exact s.accResult_short _

/-- R74: no set of the accumulator is in the empty condition. -/
theorem condHolds_zero (acc : Word) : condHolds 0x0#4 acc = false :=
  BitVec.getLsbD_zero

/-- R74: every one of the four sets of the accumulator is in the full condition. -/
theorem condHolds_allOnes (acc : Word) : condHolds 0xf#4 acc = true :=
  BitVec.getLsbD_allOnes.trans (decide_eq_true (accSet acc).isLt)

/-- Settles O17: the byte, and `test` for a condition that holds and for one that does not, which the full and the empty
condition are for every accumulator. -/
theorem testWritesTheTruthValue : Obligations.TestWritesTheTruthValue := fun c s =>
  ⟨encodeS_eq_shortCode 0x1 c, exec_test c s true, exec_test c s false,
    exec_test _ s false (condHolds_zero s.acc), exec_test _ s true (condHolds_allOnes s.acc)⟩

/-! ## Who writes the general registers -/

/-- R182, R191, R192: no exception writes a general register. -/
theorem State.raise_gpr (s t : State) (c : TrapCause) (h : s.raise c = .next t) : t.gpr = s.gpr :=
  State.raise_keeps State.gpr (fun _ _ => rfl) (fun _ => rfl) (fun _ _ => rfl) (fun _ _ => rfl) (fun _ _ _ => rfl)
    (fun _ _ => rfl) (fun _ _ => rfl) (fun _ _ => rfl) (fun _ _ _ => rfl) s t c h

@[simp] theorem State.readAuxIntoAcc_gpr (s : State) (defined : Bool) (held : Word) :
    (s.readAuxIntoAcc defined held).gpr = s.gpr := by
  cases defined <;> rfl

@[simp] theorem State.setAsr_gpr (s : State) (x : Fin 16) (v : Word) : (s.setAsr x v).gpr = s.gpr :=
  s.setAsr_keeps State.gpr (fun _ _ => rfl) (fun _ _ => rfl) (fun _ _ => rfl) (fun _ _ _ => rfl) x v

@[simp] theorem State.tlbClear_gpr (s : State) (va : Word) : (s.tlbClear va).gpr = s.gpr := rfl

@[simp] theorem State.tlbSet_gpr (s : State) (va entry : Word) : (s.tlbSet va entry).gpr = s.gpr := by
  rcases s.tlbSet_cases va entry with h | ⟨_, _, h⟩ | ⟨_, _, h⟩ <;> rw [h] <;> rfl

/-- R109: the update of an instruction leaves the general registers, unless it is `mt`. -/
theorem ownUpdate_gpr (s t : State) (i : Instr) (hi : ∀ x, i ≠ .mt x) (h : ownUpdate s t i) : t.gpr = s.gpr := by
  cases i with
  | null | trace | ext | extSystemCall => exact h.elim
  | mt x => exact absurd rfl (hi x)
  | halt | mfsr | mtsr | mf | jumpa | calla | ret | retl | mtlr | nop | extDataFence | extInstructionFence
  | extMoveToAur | extTlbClearAll | extTlbClear | extTlbSet =>
    rw [show t = _ from h]
    simp
  | mflr | pc | test | and | or | xor | add | shl | shr | extHartId | extTlbGet | extCheckExtension
  | andi | ori | xori | addi | jump | ld | st | extLoadLink =>
    obtain ⟨_, rfl⟩ := h
    simp
  | call => rcases h with ⟨_, _, rfl⟩ | rfl <;> rfl
  | extAtomicAnd | extAtomicOr | extAtomicXor | extAtomicAdd =>
    obtain ⟨_, _, _, rfl⟩ := h
    simp
  | extMoveFromAur | extMoveFromAsr =>
    obtain ⟨_, _, rfl⟩ := h
    simp
  | extMoveToAsr =>
    obtain ⟨_, rfl⟩ := h
    simp
  | extStoreConditional => rcases h with ⟨_, rfl⟩ | rfl <;> rfl

/-- R109: an exception leaves the general registers, and the action that `ext` performs is never `mt`. -/
theorem exec_gpr (i : Instr) (s t : State) (hi : ∀ x, i ≠ .mt x) (h : exec i s = .next t) : t.gpr = s.gpr := by
  rcases exec_next_cases i s t h with ⟨c, hc⟩ | ⟨j, rfl | ⟨_, hw⟩, hj⟩
  · exact s.raise_gpr t c hc
  · exact ownUpdate_gpr s t j hi hj
  · refine ownUpdate_gpr s t j ?_ hj
    rintro x rfl
    exact decodeAction_isAction _ _ hw rfl

/-- Settles O15: `mf` reads one register, `mt` writes one and no other, and no other instruction writes any. -/
theorem generalRegisterMoves : Obligations.GeneralRegisterMoves :=
  ⟨fun x s => ⟨encodeS_eq_shortCode 0x2 (regField x), encodeS_eq_shortCode 0x3 (regField x), s.accResult_short _,
      (s.setGpr x s.acc).setPc (s.nextPc 1), rfl, s.readGpr_setGpr_same x s.acc,
      fun y hy => s.readGpr_setGpr_other x y s.acc hy, rfl⟩,
    fun i s t hi h y => congrArg (·[y]) (exec_gpr i s t hi h)⟩

end Sys2Proof.Machine
end

section
/-! SUPPORT. The three bytes of a long instruction as numbers, and the conditional jump and call of
`42_control_and_memory.md`. -/
namespace Sys2Proof.Machine

/-! ## The bytes of a long instruction -/

/-- R71: the byte `lo` of an immediate as a number. -/
theorem immLow_eq_ofNat (imm : Imm) : imm.extractLsb' 0 8 = BitVec.ofNat 8 (imm.toNat % 256) := by
  apply BitVec.eq_of_toNat_eq
  simp

/-- R71: the byte `hi` of an immediate as a number. -/
theorem immHigh_eq_ofNat (imm : Imm) : imm.extractLsb' 8 8 = BitVec.ofNat 8 (imm.toNat / 256) :=
  congrArg (BitVec.ofNat 8) (Nat.shiftRight_eq_div_pow imm.toNat 8)

theorem encodeL_eq_longCode (op arg : BitVec 4) (imm : Imm) : encodeL op arg imm = longCode op.toNat arg.toNat imm := by
  rw [encodeL, longCode, firstByte_eq_ofNat, immLow_eq_ofNat, immHigh_eq_ofNat]

/-! ## The conditional jump and call -/

/-- R116, R117: the target is `pc + 3` plus the signed immediate, modulo `2^64`, by commuting that reduction with both
additions. -/
theorem State.relTarget_eq_ofInt (s : State) (imm : Imm) :
    s.relTarget imm = BitVec.ofInt 64 (s.pc.toInt + 3 + imm.toInt) :=
  calc s.relTarget imm = s.pc + 3 + simm imm := rfl
    _ = BitVec.ofInt 64 s.pc.toInt + BitVec.ofInt 64 3 + BitVec.ofInt 64 imm.toInt := by
      rw [BitVec.ofInt_toInt, simm_eq_ofInt]; rfl
    _ = BitVec.ofInt 64 (s.pc.toInt + 3 + imm.toInt) := by rw [BitVec.ofInt_add, BitVec.ofInt_add]

/-- R116: the next state of `jump`, by the truth value of its condition. -/
theorem exec_jump (c : Cond) (imm : Imm) (s : State) (b : Bool) (h : condHolds c s.acc = b) :
    exec (.jump c imm) s = .next { s with pc := if b then s.relTarget imm else s.pc + 3 } := by
  rw [← h]
  rfl

/-- R117: the next state of `call`, by the truth value of its condition. -/
theorem exec_call (c : Cond) (imm : Imm) (s : State) (b : Bool) (h : condHolds c s.acc = b) :
    exec (.call c imm) s =
      if b then .next { s with lr := s.pc + 3, pc := s.relTarget imm } else .next { s with pc := s.pc + 3 } := by
  rw [← h]
  rfl

/-- Settles O21: the bytes, and both instructions for a condition that holds, where the target is the signed sum, and
for one that does not. -/
theorem relativeTransfers : Obligations.RelativeTransfers := by
  intro c imm s
  rw [← s.relTarget_eq_ofInt imm]
  exact ⟨encodeL_eq_longCode 0x8 c imm, encodeL_eq_longCode 0x9 c imm,
    fun taken => ⟨exec_jump c imm s true taken, exec_call c imm s true taken⟩,
    fun passed => ⟨exec_jump c imm s false passed, exec_call c imm s false passed⟩⟩

end Sys2Proof.Machine
end

section
/-! SUPPORT. The arithmetic with the extended immediate of `43_alu_imm.md`. -/
namespace Sys2Proof.Machine

/-- R15: a long instruction whose result goes to the accumulator changes that and `pc`. -/
theorem State.accResult_long (s : State) (v : Word) : s.accResult 3 v = .next { s with acc := v, pc := s.pc + 3 } :=
  rfl

/-- Settles O19: as for the registers, with XIMM as the second word and the three bytes of the long form. -/
theorem immediateArithmetic : Obligations.ImmediateArithmetic := fun m imm s =>
  ⟨encodeL_eq_longCode 0xc m imm, encodeL_eq_longCode 0xd m imm, encodeL_eq_longCode 0xe m imm,
    encodeL_eq_longCode 0xf m imm,
    s.acc &&& ximm m imm, s.acc ||| ximm m imm, s.acc ^^^ ximm m imm, s.acc + ximm m imm,
    s.accResult_long _, s.accResult_long _, s.accResult_long _, s.accResult_long _,
    fun _ => BitVec.getLsbD_and, fun _ => BitVec.getLsbD_or, fun _ => BitVec.getLsbD_xor, BitVec.toNat_add _ _⟩

end Sys2Proof.Machine
end

section
/-! SUPPORT. The dispatch table of R136: the fields of an action word, the number it bears, and the shapes of the rows,
from which a row is selected exactly by the words that bear the number of its action. -/
namespace Sys2Proof

/-! ## Fields of a word -/

/-- A field of a field. -/
theorem extractLsb'_of_extractLsb' {w : Nat} (x : BitVec w) (start len start' len' : Nat) (h : start' + len' ≤ len) :
    (x.extractLsb' start len).extractLsb' start' len' = x.extractLsb' (start + start') len' := by
  refine BitVec.eq_of_getLsbD_eq fun j hj => ?_
  simp [show start' + j < len by omega, Nat.add_assoc]

/-- The leading bits of a word, in place. -/
theorem and_leading (n k : Nat) (w : BitVec (n + k)) :
    w &&& (BitVec.allOnes n ++ 0#k) = w.extractLsb' k n ++ 0#k := by
  have split : w = w.extractLsb' k n ++ w.extractLsb' 0 k :=
    ((BitVec.extractLsb'_append_extractLsb'_eq_extractLsb' (Nat.zero_add k).symm).trans BitVec.extractLsb'_eq_self).symm
  calc w &&& (BitVec.allOnes n ++ 0#k)
    _ = (w.extractLsb' k n ++ w.extractLsb' 0 k) &&& (BitVec.allOnes n ++ 0#k) := by rw [← split]
    _ = w.extractLsb' k n ++ 0#k := by rw [BitVec.and_append, BitVec.and_allOnes, BitVec.and_zero]

/-- R136: a row that masks the leading bits and matches a pattern in them is selected by the words that begin with
it. -/
theorem and_leading_eq_iff (n k : Nat) (w : BitVec (n + k)) (p : BitVec n) :
    w &&& (BitVec.allOnes n ++ 0#k) = p ++ 0#k ↔ w.extractLsb' k n = p := by
  rw [and_leading, BitVec.append_left_inj]

/-- R131, R134: the first two bytes of a word, as the register digit and what stands before it. -/
theorem leading16_eq_digits (w : Word) :
    w.extractLsb' 48 16 = w.extractLsb' 52 12 ++ (BitVec.ofFin (digitOf w) : BitVec 4) :=
  have digits : w.extractLsb' 52 12 ++ w.extractLsb' 48 4 = w.extractLsb' 48 16 :=
    BitVec.extractLsb'_append_extractLsb'_eq_extractLsb' rfl
  digits.symm

/-! ## The number a word bears -/

/-- R131: the number of a word, by its first byte. -/
theorem ExtNumber.ofWord_eq (w : Word) :
    ExtNumber.ofWord w =
      if fourByteLead (w.extractLsb' 56 8) then .four (w.extractLsb' 32 32) else .two (w.extractLsb' 48 16) := by
  rw [ofWord, ofLead, extractLsb'_of_extractLsb' w 32 32 24 8 (by decide),
    extractLsb'_of_extractLsb' w 32 32 16 16 (by decide)]

/-- R131: the words that bear a two-byte number. -/
theorem ExtNumber.ofWord_eq_two_iff (w : Word) (n : BitVec 16) :
    ExtNumber.ofWord w = .two n ↔ w.extractLsb' 48 16 = n ∧ (ExtNumber.two n).wellFormed = true := by
  have first : (w.extractLsb' 48 16).extractLsb' 8 8 = w.extractLsb' 56 8 :=
    extractLsb'_of_extractLsb' w 48 16 8 8 (by decide)
  rw [ofWord_eq]
  cases long : fourByteLead (w.extractLsb' 56 8)
  · simp only [Bool.false_eq_true, if_false, two.injEq, iff_self_and]
    rintro rfl
    simp [wellFormed, first, long]
  · simp only [if_true, reduceCtorEq, false_iff, not_and]
    rintro rfl
    simp [wellFormed, first, long]

/-- R131: the words that bear a four-byte number. -/
theorem ExtNumber.ofWord_eq_four_iff (w : Word) (n : BitVec 32) :
    ExtNumber.ofWord w = .four n ↔ w.extractLsb' 32 32 = n ∧ (ExtNumber.four n).wellFormed = true := by
  have first : (w.extractLsb' 32 32).extractLsb' 24 8 = w.extractLsb' 56 8 :=
    extractLsb'_of_extractLsb' w 32 32 24 8 (by decide)
  rw [ofWord_eq]
  cases long : fourByteLead (w.extractLsb' 56 8)
  · simp only [Bool.false_eq_true, if_false, reduceCtorEq, false_iff, not_and]
    rintro rfl
    simp [wellFormed, first, long]
  · simp only [if_true, four.injEq, iff_self_and]
    rintro rfl
    simp [wellFormed, first, long]

/-- R132: the number of a word is well formed. -/
theorem ExtNumber.ofWord_wellFormed (w : Word) : (ExtNumber.ofWord w).wellFormed = true := by
  cases h : ofWord w with
  | two n => exact ((ofWord_eq_two_iff w n).mp h).2
  | four n => exact ((ofWord_eq_four_iff w n).mp h).2

/-- R131, R132: what is parsed from leading bits is well formed. -/
theorem ExtNumber.ofLead_wellFormed (lead : BitVec 32) : (ExtNumber.ofLead lead).wellFormed = true := by
  have same : ofWord (lead ++ 0#32) = ofLead lead := congrArg ofLead BitVec.extractLsb'_append_eq_left
  rw [← same, ofWord_wellFormed]

/-- R131: a word that holds a number, and beside it only bits outside that number, bears it. -/
theorem ExtNumber.ofWord_word_or (n : ExtNumber) (args : Word) (hn : n.wellFormed = true)
    (free16 : args.extractLsb' 48 16 = 0#16) (free32 : ∀ m, n = .four m → args.extractLsb' 32 32 = 0#32) :
    ofWord (n.word ||| args) = n := by
  have lead : n.word.extractLsb' 32 32 = n.lead := BitVec.extractLsb'_append_eq_left
  cases n with
  | two m =>
    have bits : (ExtNumber.two m).word.extractLsb' 48 16 = m :=
      calc (ExtNumber.two m).word.extractLsb' 48 16
        _ = ((ExtNumber.two m).word.extractLsb' 32 32).extractLsb' 16 16 :=
          (extractLsb'_of_extractLsb' _ 32 32 16 16 (by decide)).symm
        _ = (m ++ 0#16).extractLsb' 16 16 := by rw [lead]; rfl
        _ = m := BitVec.extractLsb'_append_eq_left
    rw [ofWord_eq_two_iff, BitVec.extractLsb'_or, bits, free16, BitVec.or_zero]
    exact ⟨rfl, hn⟩
  | four m =>
    rw [ofWord_eq_four_iff, BitVec.extractLsb'_or, lead, free32 m rfl, BitVec.or_zero]
    exact ⟨rfl, hn⟩

/-- R131: the word of a number bears it. -/
theorem ExtNumber.ofWord_word (n : ExtNumber) (hn : n.wellFormed = true) : ofWord n.word = n := by
  simpa using n.ofWord_word_or 0#64 hn rfl fun _ _ => rfl

/-- R131: leading bits that hold a well-formed number are parsed as it. -/
theorem ExtNumber.ofLead_lead (n : ExtNumber) (hn : n.wellFormed = true) : ofLead n.lead = n :=
  (congrArg ofLead BitVec.extractLsb'_append_eq_left.symm).trans (n.ofWord_word hn)

/-- R133: the level bit of the number of a word is bit 63 of the word. -/
theorem ExtNumber.ofWord_supervisorLevel (w : Word) : (ofWord w).supervisorLevel = w.msb := by
  cases h : ofWord w with
  | two n =>
    obtain ⟨rfl, -⟩ := (ofWord_eq_two_iff w n).mp h
    calc (w.extractLsb' 48 16 ++ 0#16).msb = (w.extractLsb' 48 16).msb := BitVec.msb_append
      _ = w.msb := BitVec.msb_extractLsb'
  | four n =>
    obtain ⟨rfl, -⟩ := (ofWord_eq_four_iff w n).mp h
    exact BitVec.msb_extractLsb'

/-! ## The shapes of the rows -/

/-- R134, R136: the three shapes of a row. It matches twelve leading bits, and its action takes the digit after them;
or a two-byte number, of which only the data fence reads bits further on (R137); or a four-byte number, and its action
takes the 32 bits after it. -/
inductive ActionRow.Shape : ActionRow → Prop where
  | digit (high : BitVec 12) (act : Fin 16 → Instr) (wf : ∀ x, (digitNumber high x).wellFormed = true)
      (number : ∀ x, (act x).wellFormed = true ∧ (act x).actionNumber = some (digitNumber high x)) :
      Shape ⟨BitVec.allOnes 12 ++ 0#52, high ++ 0#52, fun w => act (digitOf w)⟩
  | two (n : BitVec 16) (act : BitVec 8 → Instr) (wf : (ExtNumber.two n).wellFormed = true)
      (number : ∀ flags, (act flags).wellFormed = true ∧ (act flags).actionNumber = some (.two n))
      (constant : n ≠ 0x0010#16 → ∀ flags flags', act flags = act flags') :
      Shape ⟨BitVec.allOnes 16 ++ 0#48, n ++ 0#48, fun w => act (w.extractLsb' 40 8)⟩
  | four (n : BitVec 32) (act : BitVec 32 → Instr) (wf : (ExtNumber.four n).wellFormed = true)
      (number : ∀ low, (act low).wellFormed = true ∧ (act low).actionNumber = some (.four n)) :
      Shape ⟨BitVec.allOnes 32 ++ 0#32, n ++ 0#32, fun w => act (w.extractLsb' 0 32)⟩

/-- R136: every row of the table has one of the shapes. -/
theorem actionRows_shape : ∀ r ∈ actionRows, r.Shape := by
  simp only [actionRows, List.forall_mem_cons]
  exact ⟨.two 0x0010#16 .extDataFence rfl (fun _ => ⟨rfl, rfl⟩) (absurd rfl),
    .two 0x0011#16 (fun _ => .extInstructionFence) rfl (fun _ => ⟨rfl, rfl⟩) fun _ _ _ => rfl,
    .digit 0x002#12 .extMoveFromAur (by decide) fun _ => ⟨rfl, rfl⟩,
    .digit 0x003#12 .extMoveToAur (by decide) fun _ => ⟨rfl, rfl⟩,
    .digit 0x004#12 .extAtomicAnd (by decide) fun _ => ⟨rfl, rfl⟩,
    .digit 0x005#12 .extAtomicOr (by decide) fun _ => ⟨rfl, rfl⟩,
    .digit 0x006#12 .extAtomicXor (by decide) fun _ => ⟨rfl, rfl⟩,
    .digit 0x007#12 .extAtomicAdd (by decide) fun _ => ⟨rfl, rfl⟩,
    .digit 0x00a#12 .extLoadLink (by decide) fun _ => ⟨rfl, rfl⟩,
    .digit 0x00b#12 .extStoreConditional (by decide) fun _ => ⟨rfl, rfl⟩,
    .four 0x7fffffff#32 .extSystemCall rfl fun _ => ⟨rfl, rfl⟩,
    .two 0x8010#16 (fun _ => .extHartId) rfl (fun _ => ⟨rfl, rfl⟩) fun _ _ _ => rfl,
    .digit 0x802#12 .extMoveFromAsr (by decide) fun _ => ⟨rfl, rfl⟩,
    .digit 0x803#12 .extMoveToAsr (by decide) fun _ => ⟨rfl, rfl⟩,
    .two 0x8040#16 (fun _ => .extTlbClearAll) rfl (fun _ => ⟨rfl, rfl⟩) fun _ _ _ => rfl,
    .digit 0x805#12 .extTlbClear (by decide) fun _ => ⟨rfl, rfl⟩,
    .digit 0x806#12 .extTlbGet (by decide) fun _ => ⟨rfl, rfl⟩,
    .digit 0x807#12 .extTlbSet (by decide) fun _ => ⟨rfl, rfl⟩,
    .four 0xffffffff#32 (fun low => .extCheckExtension (.ofLead low)) rfl
      fun low => ⟨ExtNumber.ofLead_wellFormed low, rfl⟩,
    nofun⟩

theorem ActionRow.selects_iff (r : ActionRow) (w : Word) : r.selects w = true ↔ w &&& r.mask = r.pattern :=
  beq_iff_eq

theorem ActionRow.Shape.build_wellFormed {r : ActionRow} (h : r.Shape) (w : Word) : (r.build w).wellFormed = true := by
  cases h with
  | digit _ _ _ number => exact (number _).1
  | two _ _ _ number => exact (number _).1
  | four _ _ _ number => exact (number _).1

/-- R131, R136: the action that a row gives a word that selects it bears the number of the word. -/
theorem ActionRow.Shape.actionNumber_of_selects {r : ActionRow} (h : r.Shape) (w : Word) (hs : r.selects w = true) :
    (r.build w).actionNumber = some (ExtNumber.ofWord w) := by
  rw [r.selects_iff] at hs
  cases h with
  | digit high act wf number =>
    have begins : w.extractLsb' 52 12 = high := (and_leading_eq_iff 12 52 w high).mp hs
    rw [(number _).2, digitNumber, (ExtNumber.ofWord_eq_two_iff w _).mpr ⟨?_, wf (digitOf w)⟩]
    rw [leading16_eq_digits, begins]
  | two n act wf number =>
    have begins : w.extractLsb' 48 16 = n := (and_leading_eq_iff 16 48 w n).mp hs
    rw [(number _).2, (ExtNumber.ofWord_eq_two_iff w n).mpr ⟨begins, wf⟩]
  | four n act wf number =>
    have begins : w.extractLsb' 32 32 = n := (and_leading_eq_iff 32 32 w n).mp hs
    rw [(number _).2, (ExtNumber.ofWord_eq_four_iff w n).mpr ⟨begins, wf⟩]

/-- R131, R136: a word that bears the number of an action of a row selects the row. -/
theorem ActionRow.Shape.selects_of_actionNumber {r : ActionRow} (h : r.Shape) (v w : Word)
    (hn : (r.build v).actionNumber = some (ExtNumber.ofWord w)) : r.selects w = true := by
  rw [r.selects_iff]
  cases h with
  | digit high act wf number =>
    have bears := Option.some.inj (hn.symm.trans (number _).2)
    obtain ⟨first, -⟩ := (ExtNumber.ofWord_eq_two_iff w _).mp bears
    refine (and_leading_eq_iff 12 52 w high).mpr ?_
    calc w.extractLsb' 52 12 = (w.extractLsb' 48 16).extractLsb' 4 12 :=
          (extractLsb'_of_extractLsb' w 48 16 4 12 (by decide)).symm
      _ = high := by rw [first]; exact BitVec.extractLsb'_append_eq_left
  | two n act wf number =>
    have bears := Option.some.inj (hn.symm.trans (number _).2)
    exact (and_leading_eq_iff 16 48 w n).mpr ((ExtNumber.ofWord_eq_two_iff w n).mp bears).1
  | four n act wf number =>
    have bears := Option.some.inj (hn.symm.trans (number _).2)
    exact (and_leading_eq_iff 32 32 w n).mpr ((ExtNumber.ofWord_eq_four_iff w n).mp bears).1

/-- R131, R136: which rows a word selects is a matter of its number alone. -/
theorem ActionRow.Shape.selects_of_ofWord_eq {r : ActionRow} (h : r.Shape) (w w' : Word)
    (hn : ExtNumber.ofWord w = ExtNumber.ofWord w') (hs : r.selects w = true) : r.selects w' = true :=
  h.selects_of_actionNumber w w' (hn ▸ h.actionNumber_of_selects w hs)

/-- R132: the actions of the table bear well-formed numbers. -/
theorem ActionRow.Shape.number_wellFormed {r : ActionRow} (h : r.Shape) (v : Word) (n : ExtNumber)
    (hn : (r.build v).actionNumber = some n) : n.wellFormed = true := by
  cases h with
  | digit high act wf number =>
    obtain rfl := Option.some.inj (hn.symm.trans (number _).2)
    exact wf _
  | two _ act wf number =>
    obtain rfl := Option.some.inj (hn.symm.trans (number _).2)
    exact wf
  | four _ act wf number =>
    obtain rfl := Option.some.inj (hn.symm.trans (number _).2)
    exact wf

/-! ## The table as a function -/

/-- R136: no word selects two rows, since any two rows differ in a bit that both their masks hold. -/
theorem actionRows_disjoint (w : Word) :
    actionRows.Pairwise fun r r' => ¬(r.selects w = true ∧ r'.selects w = true) := by
  have differ : actionRows.Pairwise fun r r' => r.pattern &&& r'.mask ≠ r'.pattern &&& r.mask := by decide
  refine differ.imp fun {r r'} hne ⟨hs, hs'⟩ => hne ?_
  rw [← (r.selects_iff w).mp hs, ← (r'.selects_iff w).mp hs', BitVec.and_assoc, BitVec.and_assoc,
    BitVec.and_comm r.mask]

/-- Where no two entries of a list pass a test, the search finds the one that does. -/
theorem find?_eq_some_of_unique {α : Type} (p : α → Bool) (l : List α) (a : α)
    (hl : l.Pairwise fun b c => ¬(p b = true ∧ p c = true)) (hm : a ∈ l) (ha : p a = true) : l.find? p = some a := by
  induction l with
  | nil => cases hm
  | cons b rest ih =>
    obtain ⟨hb, hrest⟩ := List.pairwise_cons.mp hl
    rcases List.mem_cons.mp hm with rfl | hm
    · exact List.find?_cons_of_pos ha
    · rw [List.find?_cons_of_neg fun hp => hb a hm ⟨hp, ha⟩, ih hrest hm]

/-- R136: the action of a word is that of the row it selects. -/
theorem decodeAction_eq_ok_iff (w : Word) (i : Instr) :
    decodeAction w = .ok i ↔ ∃ r ∈ actionRows, r.selects w = true ∧ r.build w = i := by
  constructor
  · intro h
    unfold decodeAction at h
    split at h
    · next r hr => exact ⟨r, List.mem_of_find?_eq_some hr, by simpa using List.find?_some hr, Except.ok.inj h⟩
    · cases h
  · rintro ⟨r, hm, hs, rfl⟩
    simp only [decodeAction, find?_eq_some_of_unique _ _ r (actionRows_disjoint w) hm hs]

/-! ## Decode of encode -/

/-- R134: the register digit of the word of a two-byte number is read back. -/
theorem digitOf_digitNumber_word (high : BitVec 12) (x : Fin 16) :
    digitOf ((digitNumber high x).word ||| 0#64) = x := by
  rw [BitVec.or_zero]
  have number : (digitNumber high x).word.extractLsb' 48 16 = high ++ (BitVec.ofFin x : BitVec 4) :=
    (BitVec.extractLsb'_append_eq_of_le (by decide)).trans BitVec.extractLsb'_append_eq_left
  have digit : (digitNumber high x).word.extractLsb' 48 4 = BitVec.ofFin x := by
    rw [← extractLsb'_of_extractLsb' _ 48 16 0 4 (by decide), number]
    exact BitVec.extractLsb'_append_eq_right
  exact congrArg BitVec.toFin digit

/-- R147, R155: the low 32 bits of the word of an action with a four-byte number are its argument. -/
theorem argument_of_word (lead argument : BitVec 32) :
    ((lead ++ 0#32 : Word) ||| (0#32 ++ argument)).extractLsb' 0 32 = argument := by
  have low : (lead ++ 0#32 : Word).extractLsb' 0 32 = 0#32 := BitVec.extractLsb'_append_eq_right
  have own : (0#32 ++ argument : Word).extractLsb' 0 32 = argument := BitVec.extractLsb'_append_eq_right
  rw [BitVec.extractLsb'_or, low, own, BitVec.zero_or]

/-- R137: the flags of the word of a data fence are read back. -/
theorem flags_of_word (flags : BitVec 8) :
    ((ExtNumber.two 0x0010#16).word ||| (Instr.extDataFence flags).actionArgs).extractLsb' 40 8 = flags := by
  have none_in_number : (ExtNumber.two 0x0010#16).word.extractLsb' 40 8 = 0#8 := rfl
  have own : (Instr.extDataFence flags).actionArgs.extractLsb' 40 8 = flags :=
    (BitVec.extractLsb'_append_eq_of_le (by decide)).trans BitVec.extractLsb'_append_eq_right
  rw [BitVec.extractLsb'_or, none_in_number, own, BitVec.zero_or]

/-- R134, R136: every action has a row that reads its argument back out of its word. -/
theorem exists_row_of_action (i : Instr) (n : ExtNumber) (hi : i.wellFormed = true) (hn : i.actionNumber = some n) :
    ∃ r ∈ actionRows, r.build (n.word ||| i.actionArgs) = i := by
  have row (k : Fin 19) (h : actionRows[k].build (n.word ||| i.actionArgs) = i) :
      ∃ r ∈ actionRows, r.build (n.word ||| i.actionArgs) = i := ⟨_, List.getElem_mem _, h⟩
  cases i <;> cases hn
  case extDataFence flags => exact row 0 (congrArg _ (flags_of_word flags))
  case extInstructionFence => exact row 1 rfl
  case extMoveFromAur x => exact row 2 (congrArg _ (digitOf_digitNumber_word _ x))
  case extMoveToAur x => exact row 3 (congrArg _ (digitOf_digitNumber_word _ x))
  case extAtomicAnd x => exact row 4 (congrArg _ (digitOf_digitNumber_word _ x))
  case extAtomicOr x => exact row 5 (congrArg _ (digitOf_digitNumber_word _ x))
  case extAtomicXor x => exact row 6 (congrArg _ (digitOf_digitNumber_word _ x))
  case extAtomicAdd x => exact row 7 (congrArg _ (digitOf_digitNumber_word _ x))
  case extLoadLink x => exact row 8 (congrArg _ (digitOf_digitNumber_word _ x))
  case extStoreConditional x => exact row 9 (congrArg _ (digitOf_digitNumber_word _ x))
  case extSystemCall free => exact row 10 (congrArg _ (argument_of_word _ free))
  case extHartId => exact row 11 rfl
  case extMoveFromAsr x => exact row 12 (congrArg _ (digitOf_digitNumber_word _ x))
  case extMoveToAsr x => exact row 13 (congrArg _ (digitOf_digitNumber_word _ x))
  case extTlbClearAll => exact row 14 rfl
  case extTlbClear x => exact row 15 (congrArg _ (digitOf_digitNumber_word _ x))
  case extTlbGet x => exact row 16 (congrArg _ (digitOf_digitNumber_word _ x))
  case extTlbSet x => exact row 17 (congrArg _ (digitOf_digitNumber_word _ x))
  case extCheckExtension m =>
    have parsed := (congrArg ExtNumber.ofLead (argument_of_word 0xffffffff#32 m.lead)).trans (m.ofLead_lead hi)
    exact row 18 (congrArg Instr.extCheckExtension parsed)

/-- R134: no argument of an action reaches into the first two bytes of its word. -/
theorem actionArgs_free16 (i : Instr) : i.actionArgs.extractLsb' 48 16 = 0#16 := by
  cases i with
  | extDataFence flags =>
    exact (BitVec.extractLsb'_append_eq_of_le (by decide)).trans BitVec.extractLsb'_append_eq_left
  | extSystemCall free => exact BitVec.extractLsb'_append_eq_of_le (by decide)
  | extCheckExtension n => exact BitVec.extractLsb'_append_eq_of_le (by decide)
  | _ => exact (rfl : (0#64).extractLsb' 48 16 = 0#16)

/-- R134, R147, R155: the argument of an action with a four-byte number does not reach into that number. -/
theorem actionArgs_free32 (i : Instr) (m : BitVec 32) (hn : i.actionNumber = some (.four m)) :
    i.actionArgs.extractLsb' 32 32 = 0#32 := by
  cases i <;> cases hn <;> exact BitVec.extractLsb'_append_eq_left

/-- R130, R131: the word of an action bears its number. -/
theorem ofWord_of_action (i : Instr) (n : ExtNumber) (hn : i.actionNumber = some n) (wf : n.wellFormed = true) :
    ExtNumber.ofWord (n.word ||| i.actionArgs) = n :=
  n.ofWord_word_or _ wf (actionArgs_free16 i) fun m hm => actionArgs_free32 i m (hn.trans (congrArg some hm))

/-- R130: the word of an action is its number and its argument. -/
theorem encodeAction_eq_some_iff (i : Instr) (w : Word) :
    encodeAction i = some w ↔ ∃ n, i.actionNumber = some n ∧ w = n.word ||| i.actionArgs := by
  unfold encodeAction
  cases i.actionNumber with
  | none => simp
  | some n => simp [eq_comm]

/-- R92: an action is the byte `03` in memory. -/
theorem encode_of_action (i : Instr) (hi : i.actionNumber ≠ none) : encode i = [0x03#8] := by
  cases i with
  | extDataFence | extInstructionFence | extMoveFromAur | extMoveToAur | extAtomicAnd | extAtomicOr | extAtomicXor
  | extAtomicAdd | extLoadLink | extStoreConditional | extSystemCall | extHartId | extMoveFromAsr | extMoveToAsr
  | extTlbClearAll | extTlbClear | extTlbGet | extTlbSet | extCheckExtension => rfl
  | _ => exact absurd rfl hi

/-- Settles O4: the word of an action bears its number, so it selects the row that reads its argument back. -/
theorem actionOfItsWordIsTheAction : Obligations.ActionOfItsWordIsTheAction := by
  intro i w hi hw
  obtain ⟨n, hn, rfl⟩ := (encodeAction_eq_some_iff i w).mp hw
  obtain ⟨r, hr, hb⟩ := exists_row_of_action i n hi hn
  have shape := actionRows_shape r hr
  have number : (r.build (n.word ||| i.actionArgs)).actionNumber = some n := by rw [hb, hn]
  have bears := ofWord_of_action i n hn (shape.number_wellFormed _ n number)
  have selected := shape.selects_of_actionNumber _ (n.word ||| i.actionArgs) (number.trans (congrArg some bears.symm))
  exact ⟨(decodeAction_eq_ok_iff _ i).mpr ⟨r, hr, selected, hb⟩, encode_of_action i (by simp [hn])⟩

/-! ## What a word names -/

/-- R136, R158: a number is assigned when its word selects a row. -/
theorem ExtNumber.assigned_iff (n : ExtNumber) :
    n.assigned = true ↔ n.wellFormed = true ∧ ∃ r ∈ actionRows, r.selects n.word = true := by
  simp [assigned]

/-- R136, R158: a word names an action when its number is assigned, since it selects the rows that the word of its
number selects. -/
theorem ofWord_assigned_iff (w : Word) : (ExtNumber.ofWord w).assigned = true ↔ ∃ i, decodeAction w = .ok i := by
  have wf := ExtNumber.ofWord_wellFormed w
  have same : ExtNumber.ofWord (ExtNumber.ofWord w).word = ExtNumber.ofWord w := ExtNumber.ofWord_word _ wf
  simp only [ExtNumber.assigned_iff, wf, true_and, decodeAction_eq_ok_iff]
  constructor
  · rintro ⟨r, hr, hs⟩
    exact ⟨_, r, hr, (actionRows_shape r hr).selects_of_ofWord_eq _ w same hs, rfl⟩
  · rintro ⟨_, r, hr, hs, _⟩
    exact ⟨r, hr, (actionRows_shape r hr).selects_of_ofWord_eq w _ same.symm hs⟩

/-- Settles O5: the action of a word is that of the one row it selects, and the shape of the row gives the rest. -/
theorem actionBearsTheNumberOfItsWord : Obligations.ActionBearsTheNumberOfItsWord := by
  refine fun w => ⟨ofWord_assigned_iff w, actionRows_disjoint w, fun i hi => ?_, ?_⟩
  · obtain ⟨r, hr, hs, rfl⟩ := (decodeAction_eq_ok_iff w i).mp hi
    have shape := actionRows_shape r hr
    exact ⟨shape.build_wellFormed w, shape.actionNumber_of_selects w hs⟩
  · rw [ExtNumber.ofWord_supervisorLevel, BitVec.msb_eq_decide, decide_eq_true_iff]

/-- R134, R137: two words agree in a two-byte number and, when it is that of the data fence, in the bits down to its
flags. -/
def SameNamedBits (w w' : Word) : Prop :=
  w.extractLsb' 48 16 = w'.extractLsb' 48 16 ∧
    (w.extractLsb' 48 16 = 0x0010#16 → w.extractLsb' 40 24 = w'.extractLsb' 40 24)

theorem SameNamedBits.symm {w w' : Word} (h : SameNamedBits w w') : SameNamedBits w' w :=
  ⟨h.1.symm, fun fence => (h.2 (h.1.trans fence)).symm⟩

/-- R131: words that agree in a two-byte number bear the same. -/
theorem SameNamedBits.ofWord_eq_two {w w' : Word} (h : SameNamedBits w w') (n : BitVec 16)
    (hn : ExtNumber.ofWord w = .two n) : ExtNumber.ofWord w' = .two n := by
  rw [ExtNumber.ofWord_eq_two_iff] at hn ⊢
  exact ⟨h.1.symm.trans hn.1, hn.2⟩

/-- R134, R137: a row for a two-byte number reads no other bits of a word than the named ones. -/
theorem ActionRow.Shape.build_eq {r : ActionRow} (shape : r.Shape) (w w' : Word) (h : SameNamedBits w w')
    (n : BitVec 16) (hn : ExtNumber.ofWord w = .two n) (hs : r.selects w = true) : r.build w' = r.build w := by
  obtain ⟨same16, same24⟩ := h
  have bears := (shape.actionNumber_of_selects w hs).trans (congrArg some hn)
  cases shape with
  | digit high act =>
    have digit (v : Word) : (v.extractLsb' 48 16).extractLsb' 0 4 = v.extractLsb' 48 4 :=
      extractLsb'_of_extractLsb' v 48 16 0 4 (by decide)
    have same4 : w'.extractLsb' 48 4 = w.extractLsb' 48 4 := by rw [← digit w', ← same16, digit w]
    exact congrArg (fun d : BitVec 4 => act d.toFin) same4
  | two m act wf number constant =>
    by_cases fence : m = 0x0010#16
    · have first : w.extractLsb' 48 16 = 0x0010#16 :=
        ((and_leading_eq_iff 16 48 w m).mp ((ActionRow.selects_iff _ w).mp hs)).trans fence
      have flags (v : Word) : (v.extractLsb' 40 24).extractLsb' 0 8 = v.extractLsb' 40 8 :=
        extractLsb'_of_extractLsb' v 40 24 0 8 (by decide)
      have same8 : w'.extractLsb' 40 8 = w.extractLsb' 40 8 := by rw [← flags w', ← same24 first, flags w]
      exact congrArg act same8
    · exact constant fence _ _
  | four m act wf number => cases (number _).2.symm.trans bears

/-- R134: what a word with a two-byte number names, every word with the same named bits names. -/
theorem SameNamedBits.decodeAction_eq_ok {w w' : Word} (h : SameNamedBits w w') (n : BitVec 16)
    (hn : ExtNumber.ofWord w = .two n) (i : Instr) (hi : decodeAction w = .ok i) : decodeAction w' = .ok i := by
  obtain ⟨r, hr, hs, rfl⟩ := (decodeAction_eq_ok_iff w i).mp hi
  have shape := actionRows_shape r hr
  have selected := shape.selects_of_ofWord_eq w w' (hn.trans (h.ofWord_eq_two n hn).symm) hs
  exact (decodeAction_eq_ok_iff w' _).mpr ⟨r, hr, selected, shape.build_eq w w' h n hn hs⟩

/-- Settles O6: the named bits are the same both ways. -/
theorem unnamedActionBitsAreIgnored : Obligations.UnnamedActionBitsAreIgnored := by
  rintro w w' same16 same24 ⟨n, hn⟩ i
  have named : SameNamedBits w w' := ⟨same16, same24⟩
  exact ⟨named.decodeAction_eq_ok n hn i, named.symm.decodeAction_eq_ok n (named.ofWord_eq_two n hn) i⟩

end Sys2Proof
end

section
/-! SUPPORT. What the actions of `ext` do when they act: hart ID and check extension, the moves with the auxiliary user
registers, the atomic actions and the TLB actions (`44_extensions.md`); and who writes `asr0` at user level (R197). -/
namespace Sys2Proof.Machine

/-! ## Hart ID and check extension -/

/-- Settles O44: the action is implemented and the level is supervisor, so it acts. -/
theorem hartIdGoesToTheAccumulator : Obligations.HartIdGoesToTheAccumulator :=
  ⟨rfl, fun s hi hs => s.gate_acts _ _ hi fun _ => hs⟩

/-- R155: an implemented check extension writes the truth value of what it is asked. -/
theorem exec_extCheckExtension (n : ExtNumber) (s : State) (b : Bool)
    (hi : s.implements (.four 0xffffffff#32) = true) (hs : s.supervisor = true) (hn : s.implements n = b) :
    exec (.extCheckExtension n) s = .next { s with acc := truthWord b, pc := s.pc + 1 } := by
  rw [← hn]
  exact s.gate_acts _ _ hi fun _ => hs

/-- Settles O49: the truth value of either answer. -/
theorem checkExtensionTellsWhatIsImplemented : Obligations.CheckExtensionTellsWhatIsImplemented := fun n s hi hs =>
  ⟨exec_extCheckExtension n s true hi hs, exec_extCheckExtension n s false hi hs⟩

/-! ## The auxiliary user registers -/

/-- R139: the move from an auxiliary user register, by whether the register is defined. -/
theorem exec_extMoveFromAur (x : Fin 16) (s : State) (defined : Bool)
    (hi : s.implements (digitNumber 0x002#12 x) = true) (hd : s.aurDefined x = defined) :
    exec (.extMoveFromAur x) s = .next ((s.readAuxIntoAcc defined s.aur[x]).setPc (s.nextPc 1)) := by
  rw [← hd]
  exact s.gate_user _ x _ hi rfl

/-- R140: the move to an auxiliary user register. -/
theorem exec_extMoveToAur (x : Fin 16) (s : State) (hi : s.implements (digitNumber 0x003#12 x) = true) :
    exec (.extMoveToAur x) s = .next ((s.setAur x s.acc).setPc (s.nextPc 1)) :=
  s.gate_user _ x _ hi rfl

/-- Settles O39: a defined register reads as it holds and a reserved one as the free value; a move to one leaves the
others. -/
theorem auxiliaryUserRegisterMoves : Obligations.AuxiliaryUserRegisterMoves := fun x s =>
  ⟨exec_extMoveFromAur x s true, exec_extMoveFromAur x s false, fun hi =>
    ⟨_, exec_extMoveToAur x s hi, Vector.getElem_set_self x.isLt,
      fun y hy => Vector.getElem_set_ne x.isLt y.isLt fun e => hy (Fin.ext e.symm), rfl⟩⟩

/-! ## The atomic actions -/

/-- R141: an atomic read and write at an address that is located for both. -/
theorem State.atomic_of_locate (s : State) (x : Reg) (op : Word → Word → Word) (pa : Word)
    (hr : s.locate .read (s.readGpr x) = .ok pa) (hw : s.locate .write (s.readGpr x) = .ok pa) :
    s.atomic x op = .next (((s.mayLoseReservation.setMem
      (Memory.writeRotated s.mem pa (op s.acc (Memory.readRotated s.mem pa)))).setAcc
      (Memory.readRotated s.mem pa)).setPc (s.nextPc 1)) := by
  simp [State.atomic, s.load_of_locate _ pa hr, s.store_of_locate _ pa _ hw]

/-- R144: the sum of two words, modulo `2^64`. -/
theorem add_eq_ofNat (v w : Word) : v + w = BitVec.ofNat 64 (v.toNat + w.toNat) :=
  BitVec.eq_of_toNat_eq ((BitVec.toNat_add v w).trans (BitVec.toNat_ofNat _ _).symm)

/-- Settles O40: each action is the atomic read and write of its operation, which reads and writes the one block with
rotation. -/
theorem atomicActionsFetchAndModify : Obligations.AtomicActionsFetchAndModify := by
  intro x s pa i n op named wf hi hr hw
  have performs : exec i s = s.atomic x op := by
    rcases named with ⟨rfl, rfl, rfl⟩ | ⟨rfl, rfl, rfl⟩ | ⟨rfl, rfl, rfl⟩ | ⟨rfl, rfl, rfl⟩
    · exact s.gate_user _ x _ hi rfl
    · exact s.gate_user _ x _ hi rfl
    · exact s.gate_user _ x _ hi rfl
    · simp only [← add_eq_ofNat]
      exact s.gate_user _ x _ hi rfl
  refine ⟨_, performs.trans (s.atomic_of_locate x op pa hr hw), fun j hj => wordByte_readRotated s.mem pa j hj,
    fun j hj => Memory.read_writeRotated_inside s.mem wf pa _ j hj,
    fun a' ha => Memory.read_writeRotated_outside s.mem wf pa _ a' ha, s.mayLoseReservation_keptOrLost, ?_⟩
  exact congrArg (fun u => ((u.setMem (Memory.writeRotated s.mem pa (op s.acc (Memory.readRotated s.mem pa)))).setAcc
    (Memory.readRotated s.mem pa)).setPc (s.nextPc 1)) s.mayLoseReservation_eq

/-! ## TLB get, TLB clear all and TLB clear -/

/-- R134: the word of a two-byte number with a register digit, as a number. -/
theorem digitNumber_word (high : BitVec 12) (x : Fin 16) : (digitNumber high x).word = digitWord high.toNat x := by
  have digits : (high ++ (BitVec.ofFin x : BitVec 4)).toNat = high.toNat * 2 ^ 4 + x.val := toNat_fields _ _
  have lead : (digitNumber high x).lead.toNat = (high ++ (BitVec.ofFin x : BitVec 4)).toNat * 2 ^ 16 + 0 :=
    toNat_fields _ _
  have word : (digitNumber high x).word.toNat = (digitNumber high x).lead.toNat * 2 ^ 32 + 0 := toNat_fields _ _
  have small := high.isLt
  apply BitVec.eq_of_toNat_eq
  rw [word, lead, digits, digitWord, BitVec.toNat_ofNat]
  omega

/-- R134: the action word of an action that takes nothing but a register digit. -/
theorem encodeAction_digit (i : Instr) (high : BitVec 12) (x : Fin 16)
    (hn : i.actionNumber = some (digitNumber high x)) (ha : i.actionArgs = 0#64) :
    encodeAction i = some (digitWord high.toNat x) :=
  (encodeAction_eq_some_iff i _).mpr ⟨_, hn, by rw [ha, BitVec.or_zero, digitNumber_word]⟩

/-- R152: with the lines of a tag removed, that tag has no entry and every other tag has what it had. -/
theorem entryFor_filter (lines : List TlbLine) (tag tag' : BitVec 48) :
    entryFor (lines.filter fun l => l.tag != tag) tag' = if tag' = tag then none else entryFor lines tag' := by
  induction lines with
  | nil => simp [entryFor]
  | cons l rest ih =>
    rw [entryFor_cons]
    by_cases removed : l.tag = tag
    · rw [List.filter_cons_of_neg (by simpa using removed), ih, removed]
      by_cases same : tag' = tag
      · simp [same]
      · simp [same, Ne.symm same]
    · rw [List.filter_cons_of_pos (by simpa using removed), entryFor_cons, ih]
      by_cases found : l.tag = tag'
      · simp [found, show tag' ≠ tag from found ▸ removed]
      · simp [found]

/-- R151: after TLB clear all no address is mapped. -/
theorem State.tlbFind_tlbClearAll (s : State) (va : Word) : s.tlbClearAll.tlbFind va = none := by
  simp [State.tlbFind, State.tlbLines, State.tlbClearAll]

/-- R152: TLB clear unmaps the page of its address and no other. -/
theorem State.tlbFind_tlbClear (s : State) (va va' : Word) :
    (s.tlbClear va).tlbFind va' = if va'.toNat / 4096 = va.toNat / 4096 then none else s.tlbFind va' := by
  rw [State.tlbClear, s.tlbFind_setTlbSet, entryFor_filter]
  simp only [samePage_iff]
  by_cases same_set : tlbSetOf va' = tlbSetOf va
  · have same_lines : s.tlbLines va = s.tlbLines va' := congrArg (s.tlb[·]) same_set.symm
    simp [same_set, same_lines, s.tlbFind_eq_entryFor]
  · simp [same_set]

/-- Settles O47: the words, and each action acts at supervisor level. -/
theorem tlbGetAndClears : Obligations.TlbGetAndClears := by
  refine ⟨rfl, fun x => encodeAction_digit _ 0x805#12 x rfl rfl, fun x => encodeAction_digit _ 0x806#12 x rfl rfl,
    fun x s hs => ⟨fun hi => s.gate_supervisor _ x _ hi hs, fun hi => ?_, fun hi => ?_⟩⟩
  · exact ⟨s.tlbClearAll.setPc (s.nextPc 1), s.gate_acts _ _ hi fun _ => hs, s.tlbFind_tlbClearAll, rfl⟩
  · have find := s.tlbFind_tlbClear (s.readGpr x)
    exact ⟨(s.tlbClear (s.readGpr x)).setPc (s.nextPc 1), s.gate_supervisor _ x _ hi hs,
      fun va page => (find va).trans (if_pos page), fun va page => (find va).trans (if_neg page), rfl⟩

/-! ## Who writes `asr0` -/

@[simp] theorem State.readAuxIntoAcc_sfr (s : State) (defined : Bool) (held : Word) :
    (s.readAuxIntoAcc defined held).sfr = s.sfr := by
  cases defined <;> rfl

@[simp] theorem State.tlbClear_sfr (s : State) (va : Word) : (s.tlbClear va).sfr = s.sfr := rfl

@[simp] theorem State.tlbSet_sfr (s : State) (va entry : Word) : (s.tlbSet va entry).sfr = s.sfr := by
  rcases s.tlbSet_cases va entry with h | ⟨_, _, h⟩ | ⟨_, _, h⟩ <;> rw [h] <;> rfl

/-- R150, R197: the update of an instruction leaves `asr0`, but for the move to an auxiliary supervisor register, which
is made at supervisor level only. -/
theorem ownUpdate_sfr (s t : State) (i : Instr) (user : s.supervisor = false) (h : ownUpdate s t i) :
    t.sfr = s.sfr := by
  cases i with
  | null | trace | ext | extSystemCall => exact h.elim
  | extMoveToAsr =>
    obtain ⟨supervisor, _⟩ := h
    rw [user] at supervisor
    cases supervisor
  | halt | mfsr | mtsr | mf | mt | jumpa | calla | ret | retl | mtlr | nop | extDataFence | extInstructionFence
  | extMoveToAur | extTlbClearAll | extTlbClear | extTlbSet =>
    rw [show t = _ from h]
    simp
  | mflr | pc | test | and | or | xor | add | shl | shr | extHartId | extTlbGet | extCheckExtension
  | andi | ori | xori | addi | jump | ld | st | extLoadLink =>
    obtain ⟨_, rfl⟩ := h
    simp
  | call => rcases h with ⟨_, _, rfl⟩ | rfl <;> rfl
  | extAtomicAnd | extAtomicOr | extAtomicXor | extAtomicAdd =>
    obtain ⟨_, _, _, rfl⟩ := h
    simp
  | extMoveFromAur | extMoveFromAsr =>
    obtain ⟨_, _, rfl⟩ := h
    simp
  | extStoreConditional => rcases h with ⟨_, rfl⟩ | rfl <;> rfl

/-- Settles O58: an instruction takes an exception or makes its own update, or that of the action `ext` performs. -/
theorem userLevelCannotWriteTheSupervisorFlags : Obligations.UserLevelCannotWriteTheSupervisorFlags := by
  intro i s t user h
  rcases exec_next_cases i s t h with raised | ⟨j, _, hj⟩
  · exact .inr raised
  · exact .inl (ownUpdate_sfr s t j user hj)

end Sys2Proof.Machine
end

section
/-! SUPPORT. The words of an entry of the interrupt table, and all the ways an instruction, a fetch and a step can end;
with them the statements of `60_exceptions.md`. -/
namespace Sys2Proof.Machine

/-! ## The words of the interrupt table -/

/-- R189: the address of an entry of the interrupt table, as a word. -/
theorem tableEntryAddr_eq_ofNat (itr : BitVec 52) (n : BitVec 8) :
    tableEntryAddr itr n = BitVec.ofNat 64 (itr.toNat * 4096 + 16 * n.toNat) := by
  rw [← tableEntryAddr_toNat, BitVec.ofNat_toNat, BitVec.setWidth_eq]

/-- An address at or above the first byte of page `k` lies in page `k` or above. -/
theorem le_page_of_le_address (k page offset : Nat) (ho : offset < 4096) (h : k * 4096 ≤ page * 4096 + offset) :
    k ≤ page := by
  omega

/-- R47: the I/O region begins at a page boundary, so that a page whose first byte lies outside lies outside whole. -/
theorem State.inIoRegion_of_page (s : State) (page offset : Nat) (hp : page < 2 ^ 52) (ho : offset < 4096)
    (h : s.inIoRegion (BitVec.ofNat 64 (page * 4096)) = false) :
    s.inIoRegion (BitVec.ofNat 64 (page * 4096 + offset)) = false := by
  rw [Bool.eq_false_iff, ne_eq, s.inIoRegion_iff, BitVec.toNat_ofNat, Nat.mod_eq_of_lt (by omega)] at h ⊢
  exact fun ⟨extended, above⟩ =>
    h ⟨extended, Nat.mul_le_mul_right 4096 (le_page_of_le_address 0xffff_0000_0000_0 page offset ho above)⟩

/-- R189: an untranslated read of the table outside the I/O region, of a block in `MEM_MAP`, is the rotated read. -/
theorem State.tableWord_untranslated (s : State) (a : Word) (ht : s.params.translation.table = none)
    (hio : s.inIoRegion a = false) (hb : s.backed a = true) :
    s.tableWord a = .ok (Memory.readRotated s.mem a) := by
  simp [State.tableWord, State.locateWith, ht, s.mapped_of_backed a a hio hb]

/-- R191: a table entry whose two words can be read. -/
theorem State.tableEntry_of_words (s : State) (n : BitVec 8) (p f : Word)
    (hp : s.tableWord (tableEntryAddr s.itr n) = .ok p) (hf : s.tableWord (tableEntryAddr s.itr n + 8) = .ok f) :
    s.tableEntry n = .ok (p, f) := by
  simp only [State.tableEntry, hp, hf]

/-- R37: at an aligned address nothing is rotated, and byte `i` of the read is the byte `i` further on. -/
theorem State.wordByte_readRotated_aligned (s : State) (a i : Nat) (aligned : a % 8 = 0) (ha : a < 2 ^ 64)
    (hi : i < 8) :
    wordByte (Memory.readRotated s.mem (BitVec.ofNat 64 a)) i = s.memByte (BitVec.ofNat 64 (a + i)) := by
  rw [rotatedReadBytes s.mem _ i hi, State.memByte, BitVec.toNat_ofNat, BitVec.toNat_ofNat, Nat.mod_eq_of_lt ha,
    Nat.mod_eq_of_lt (by omega)]
  congr 1
  omega

/-- Settles O32: both words are rotated reads at aligned addresses in the page of the table. -/
theorem tableEntryIsTwoAlignedWords : Obligations.TableEntryIsTwoAlignedWords := by
  intro s n ht hio hb0 hb8
  have page : s.itr.toNat < 2 ^ 52 := s.itr.isLt
  have number : n.toNat < 256 := n.isLt
  have io0 := s.inIoRegion_of_page _ (16 * n.toNat) page (by omega) hio
  have io8 := s.inIoRegion_of_page _ (16 * n.toNat + 8) page (by omega) hio
  rw [← Nat.add_assoc] at io8
  have second : tableEntryAddr s.itr n + 8 = BitVec.ofNat 64 (s.itr.toNat * 4096 + 16 * n.toNat + 8) := by
    rw [tableEntryAddr_eq_ofNat, BitVec.ofNat_add _ 8]
    rfl
  refine ⟨_, _, s.tableEntry_of_words n _ _ ?_ ?_, fun i hi =>
    ⟨s.wordByte_readRotated_aligned _ i (by omega) (by omega) hi,
      s.wordByte_readRotated_aligned _ i (by omega) (by omega) hi⟩⟩
  · rw [tableEntryAddr_eq_ofNat]
    exact s.tableWord_untranslated _ ht io0 hb0
  · rw [second]
    exact s.tableWord_untranslated _ ht io8 hb8

/-! ## The ends of an instruction -/

/-- All the ways in which the instruction `i` can end: it gives a next state, it raises one of its events, or it makes
an access that is not located and ends as the access does (R181, R182, R184). -/
inductive InstrEnd (s : State) (i : Instr) : Result → Prop where
  | completes (t : State) : InstrEnd s i (.next t)
  | raises (c : TrapCause) (h : RaisesEvent s i c) : InstrEnd s i (s.raise c)
  | stopped (k : Access) (va : Word) (e : Stop) (h : s.locate k va = .error e) : InstrEnd s i (s.stop e)

/-- R92: an action raises the event of a check that it does not pass, and else ends as what it does when it acts. -/
theorem InstrEnd.of_gate {s : State} {i : Instr} {n : ExtNumber} {r : Result} (hn : i.actionNumber = some n)
    (acts : s.implements n = true → InstrEnd s i r) : InstrEnd s i (s.gate n r) := by
  rcases s.gate_cases n r with ⟨hi, e⟩ | ⟨hi, hl, hs, e⟩ | ⟨hi, _, e⟩ <;> rw [e]
  · exact .raises _ (.notImplemented i n hn hi)
  · exact .raises _ (.privileged i n hn hi hl hs)
  · exact acts hi

/-- R92, R130: `ext` ends as the action that `sr` names. -/
theorem InstrEnd.performed {s : State} {i : Instr} {r : Result} (hw : decodeAction s.sr = .ok i)
    (h : InstrEnd s i r) : InstrEnd s .ext r := by
  cases h with
  | completes t => exact .completes t
  | raises c h => exact .raises c (.performed i c hw h)
  | stopped k va e h => exact .stopped k va e h

/-- R118: how a load ends. -/
theorem execLd_ends (s : State) (x : Reg) (imm : Imm) : InstrEnd s (.ld x imm) (execLd x imm s) := by
  cases h : s.locate .read (s.effAddr x imm) with
  | error e => simpa [execLd, State.load, h] using InstrEnd.stopped _ _ e h
  | ok pa => simpa [execLd, s.load_of_locate _ pa h] using InstrEnd.completes _

/-- R119: how a store ends. -/
theorem execSt_ends (s : State) (x : Reg) (imm : Imm) : InstrEnd s (.st x imm) (execSt x imm s) := by
  cases h : s.locate .write (s.effAddr x imm) with
  | error e => simpa [execSt, State.store, h] using InstrEnd.stopped _ _ e h
  | ok pa => simpa [execSt, s.store_of_locate _ pa _ h] using InstrEnd.completes _

/-- R141: how the atomic read and write ends. -/
theorem State.atomic_ends (s : State) (i : Instr) (x : Reg) (op : Word → Word → Word) :
    InstrEnd s i (s.atomic x op) := by
  cases hr : s.locate .read (s.readGpr x) with
  | error e => simpa [State.atomic, State.load, hr] using InstrEnd.stopped _ _ e hr
  | ok pa =>
    cases hw : s.locate .write (s.readGpr x) with
    | error e => exact s.atomic_of_write_error x op pa e hr hw ▸ .stopped _ _ e hw
    | ok pa' =>
      simpa [State.atomic, s.load_of_locate _ pa hr, s.store_of_locate _ pa' _ hw] using InstrEnd.completes _

/-- R145: how a load-link that acts ends. -/
theorem State.loadLink_ends (s : State) (i : Instr) (x : Reg) : InstrEnd s i (s.loadLink x) := by
  cases h : s.locate .read (s.readGpr x) with
  | error e => simpa [State.loadLink, State.load, h] using InstrEnd.stopped _ _ e h
  | ok pa => simpa [State.loadLink, s.load_of_locate _ pa h] using InstrEnd.completes _

/-- R146: how a store-conditional that acts ends. -/
theorem State.storeConditional_ends (s : State) (i : Instr) (x : Reg) : InstrEnd s i (s.storeConditional x) := by
  by_cases hr : s.reservation = some (blockOf (s.readGpr x))
  · cases h : s.locate .write (s.readGpr x) with
    | error e => simpa [State.storeConditional, State.store, hr, h] using InstrEnd.stopped _ _ e h
    | ok pa => simpa [State.storeConditional, hr, s.store_of_locate _ pa _ h] using InstrEnd.completes _
  · simpa [State.storeConditional, hr] using InstrEnd.completes _

/-- All the ways in which an instruction other than `ext` can end. -/
theorem exec_ends_of_ne_ext (i : Instr) (s : State) (hi : i ≠ .ext) : InstrEnd s i (exec i s) := by
  cases i with
  | ext => exact absurd rfl hi
  | null => exact .raises _ .null
  | trace => exact .raises _ .trace
  | halt | mfsr | mtsr | shl | shr | jumpa | calla | ret | retl | mflr | mtlr | pc | nop | test | mf | mt | and | or
  | xor | add | jump | andi | ori | xori | addi => exact .completes _
  | call c imm =>
    cases h : condHolds c s.acc
    · exact exec_call c imm s false h ▸ .completes _
    · exact exec_call c imm s true h ▸ .completes _
  | ld x imm => exact execLd_ends s x imm
  | st x imm => exact execSt_ends s x imm
  | extDataFence | extInstructionFence | extMoveFromAur | extMoveToAur | extHartId | extMoveFromAsr | extMoveToAsr
  | extTlbClearAll | extTlbClear | extTlbGet | extTlbSet | extCheckExtension =>
    exact .of_gate rfl fun _ => .completes _
  | extAtomicAnd | extAtomicOr | extAtomicXor | extAtomicAdd => exact .of_gate rfl fun _ => s.atomic_ends _ _ _
  | extLoadLink x => exact .of_gate rfl fun _ => s.loadLink_ends _ x
  | extStoreConditional x => exact .of_gate rfl fun _ => s.storeConditional_ends _ x
  | extSystemCall free => exact .of_gate rfl fun implemented => .raises _ (.systemCall free implemented)

/-- All the ways in which an instruction can end. -/
theorem exec_ends (i : Instr) (s : State) : InstrEnd s i (exec i s) := by
  by_cases hi : i = .ext
  · subst hi
    cases hw : decodeAction s.sr with
    | error e => exact exec_ext_of_decodeAction_error s e hw ▸ .raises _ (.unassigned e hw)
    | ok j =>
      have not_ext : j ≠ .ext := fun e => decodeAction_isAction _ j hw (e ▸ rfl)
      exact exec_ext_of_decodeAction s j hw ▸ (exec_ends_of_ne_ext j s not_ext).performed hw
  · exact exec_ends_of_ne_ext i s hi

/-! ## The ends of a fetch and of a step -/

/-- R41: a byte is not fetched because its address is not located. -/
theorem State.fetchByte_error (s : State) (a : Word) (e : Stop) (h : s.fetchByte a = .error e) :
    s.locate .execute a = .error e := by
  unfold State.fetchByte at h
  split at h
  · cases h
  · next e' he =>
    cases h
    exact he

/-- R64: the immediate is not fetched because one of its bytes is not. -/
theorem State.fetchImm_error (s : State) (e : Stop) (h : s.fetchImm = .error e) :
    ∃ a, s.fetchByte a = .error e := by
  unfold State.fetchImm at h
  split at h
  · next e' he =>
    cases h
    exact ⟨_, he⟩
  · split at h
    · next e' he =>
      cases h
      exact ⟨_, he⟩
    · cases h

/-- R64: an instruction is not fetched because the address of one of its bytes is not located. -/
theorem State.fetchInstr_error (s : State) (e : Stop) (h : s.fetchInstr = .error e) :
    ∃ a, s.locate .execute a = .error e := by
  suffices ∃ a, s.fetchByte a = .error e from this.imp fun a ha => s.fetchByte_error a e ha
  unfold State.fetchInstr at h
  split at h
  · next e' he =>
    cases h
    exact ⟨_, he⟩
  · split at h
    · split at h
      · next e' he =>
        cases h
        exact s.fetchImm_error _ he
      · cases h
    · cases h

/-- R9, R15: all that a step can be: the entry for an interrupt; the end of a halted processor; or, not halted and with
no interrupt to take, the stop of a fetch or the execution of the instruction that was fetched. -/
theorem step_cases (s : State) :
    (∃ n r, s.received = some (n, r) ∧ step s = r.enter n) ∨
      (s.halted = true ∧ step s = .fault (.halted s.pc)) ∨
      (s.halted = false ∧
        ((∃ a e, s.locate .execute a = .error e ∧ step s = s.stop e) ∨ ∃ i, step s = exec i s)) := by
  cases hr : s.received with
  | some taken => exact .inl ⟨taken.1, taken.2, rfl, step_of_received s _ _ hr⟩
  | none =>
    cases hh : s.halted with
    | true => exact .inr (.inl ⟨rfl, step_of_halted s hh hr⟩)
    | false =>
      refine .inr (.inr ⟨rfl, ?_⟩)
      cases hf : s.fetchInstr with
      | error e =>
        obtain ⟨a, ha⟩ := s.fetchInstr_error e hf
        exact .inl ⟨a, e, ha, step_of_fetch_error s e hr hh hf⟩
      | ok i => exact .inr ⟨i, step_of_fetch_ok s i hr hh hf⟩

/-! ## The outcomes of a BASE step -/

/-- R49, R184: in BASE an access is not located only where its own address is not backed. -/
theorem State.locate_error_base (s : State) (hp : s.params.profile = .base) (k : Access) (va : Word) (e : Stop)
    (h : s.locate k va = .error e) : e = .unmapped va := by
  have untranslated : s.translated k s.privilege = false := by simp [State.translated, hp]
  have outside : s.inIoRegion va = false := by simp [State.inIoRegion, hp]
  rw [s.locate_untranslated k va untranslated] at h
  cases hb : s.backed va with
  | true => cases (s.mapped_of_backed va va outside hb).symm.trans h
  | false =>
    cases (s.mapped_of_not_backed va va outside hb).symm.trans h
    rfl

/-- R182, R184: in BASE an access that is not located ends the run at the instruction. -/
theorem State.stop_baseOutcome (s : State) (hp : s.params.profile = .base) (k : Access) (va : Word) (e : Stop)
    (h : s.locate k va = .error e) : BaseOutcome s (s.stop e) := by
  rw [s.locate_error_base hp k va e h]
  rfl

/-- R182: the events that an instruction can raise in BASE: no action is implemented, and no access is translated. -/
theorem RaisesEvent.base {s : State} {i : Instr} {c : TrapCause} (h : RaisesEvent s i c)
    (hp : s.params.profile = .base) : c = .nullTrap ∨ c = .traceTrap ∨ c = .extInvalid s.sr := by
  have unimplemented (n : ExtNumber) : s.implements n ≠ true := by simp [s.implements_base hp]
  have permitted (k : Access) (va va' : Word) : s.locate k va ≠ .error (.trap (.protection va')) :=
    fun h => nomatch s.locate_error_base hp k va _ h
  induction h with
  | null => exact .inl rfl
  | trace => exact .inr (.inl rfl)
  | unassigned | notImplemented => exact .inr (.inr rfl)
  | systemCall _ hi | privileged _ _ _ hi => exact absurd hi (unimplemented _)
  | load _ _ _ h | store _ _ _ h | atomicRead _ _ _ _ _ _ h | atomicWrite _ _ _ _ _ _ _ _ h | loadLink _ _ _ h
  | storeConditional _ _ _ _ h => exact absurd h (permitted _ _ _)
  | performed _ _ _ _ ih => exact ih

/-- R203: an instruction in BASE has one of the outcomes of a BASE step. -/
theorem InstrEnd.baseOutcome {s : State} {i : Instr} {r : Result} (h : InstrEnd s i r)
    (hp : s.params.profile = .base) : BaseOutcome s r := by
  cases h with
  | completes t => trivial
  | raises c h =>
    rw [s.raise_base hp c]
    exact ⟨rfl, h.base hp⟩
  | stopped k va e h => exact s.stop_baseOutcome hp k va e h

/-- Settles O56: no interrupt is received in BASE, and each of the other cases of a step has an outcome of the list. -/
theorem baseStepOutcomes : Obligations.BaseStepOutcomes := by
  intro s hp
  rcases step_cases s with ⟨n, r, hr, _⟩ | ⟨halted, e⟩ | ⟨_, ⟨a, stop, ha, e⟩ | ⟨i, e⟩⟩
  · cases (s.received_base hp).symm.trans hr
  · exact e ▸ ⟨rfl, halted⟩
  · exact e ▸ s.stop_baseOutcome hp _ a stop ha
  · exact e ▸ (exec_ends i s).baseOutcome hp

/-! ## Which trap ends the run -/

/-- R182, R187: the trap `c` at `p` ends the run at the instruction, and has no table entry to enter through. -/
def EndsTheRun (s : State) (c : TrapCause) (p : Word) : Prop := p = s.pc ∧ s.trapNumber c = none

/-- R191: an entry never ends the run in a trap. -/
theorem State.enter_ne_trapped (s : State) (n : BitVec 8) (c : TrapCause) (p : Word) :
    s.enter n ≠ .fault (.trapped c p) := by
  unfold State.enter
  split
  · nofun
  · next e _ => cases e <;> nofun

/-- R182, R186: an exception ends the run in a trap only when its own event has no table entry. -/
theorem State.raise_trapped (s : State) (event c : TrapCause) (p : Word)
    (h : s.raise event = .fault (.trapped c p)) : EndsTheRun s c p := by
  rcases s.raise_cases event with ⟨hn, e⟩ | ⟨n, _, e⟩
  · cases e.symm.trans h
    exact ⟨rfl, hn⟩
  · exact absurd (e.symm.trans h) ((s.recordTrap event).enter_ne_trapped n c p)

/-- R182: an operation that gives no value ends the run in a trap only by an exception. -/
theorem State.stop_trapped (s : State) (e : Stop) (c : TrapCause) (p : Word)
    (h : s.stop e = .fault (.trapped c p)) : EndsTheRun s c p := by
  cases e with
  | trap event => exact s.raise_trapped event c p h
  | unmapped | tlbMiss | malformedEntry | ioRegion => cases h

/-- R182: an instruction ends the run in a trap only by an exception. -/
theorem exec_trapped (i : Instr) (s : State) (c : TrapCause) (p : Word) (h : exec i s = .fault (.trapped c p)) :
    EndsTheRun s c p := by
  have ends := exec_ends i s
  generalize exec i s = r at ends h
  cases ends with
  | completes t => cases h
  | raises event _ => exact s.raise_trapped event c p h
  | stopped _ _ e _ => exact s.stop_trapped e c p h

/-- Settles O59: neither an entry for an interrupt nor the step of a halted processor is a trap; a fetch that stops and
an instruction trap only by an exception. -/
theorem trapsNameTheirInstruction : Obligations.TrapsNameTheirInstruction := by
  intro s c p h
  rcases step_cases s with ⟨n, r, _, e⟩ | ⟨_, e⟩ | ⟨running, ⟨_, stop, _, e⟩ | ⟨i, e⟩⟩
  · exact absurd (e.symm.trans h) (r.enter_ne_trapped n c p)
  · cases e.symm.trans h
  · obtain ⟨at_pc, no_entry⟩ := s.stop_trapped stop c p (e.symm.trans h)
    exact ⟨at_pc, no_entry, running⟩
  · obtain ⟨at_pc, no_entry⟩ := exec_trapped i s c p (e.symm.trans h)
    exact ⟨at_pc, no_entry, running⟩

end Sys2Proof.Machine
end
